-- ==== Sys2Proof/Word.lean ====
section
/-! DEFINITION. The word types of the Bridge CORE: bytes, 16-bit numbers, command words, and the 6-byte
addresses that 20_memory.md R56 calls strings, not numbers. -/

namespace Sys2Proof

/-- The addressable unit (20_memory.md R51). -/
abbrev Byte := BitVec 8

/-- A 16-bit unsigned number: a length, a count, the operand field `n` (30_encoding.md R80). -/
abbrev Half := BitVec 16

/-- A command word (30_encoding.md R80). -/
abbrev Word := BitVec 32

/-- A 6-byte address field or filter key, byte 0 first (20_memory.md R56). -/
structure Addr where
  b0 : Byte
  b1 : Byte
  b2 : Byte
  b3 : Byte
  b4 : Byte
  b5 : Byte
  deriving DecidableEq, Repr, Inhabited

/-- The six bytes in order. -/
def Addr.bytes (a : Addr) : List Byte := [a.b0, a.b1, a.b2, a.b3, a.b4, a.b5]

end Sys2Proof
end

