-- ==== Sys2Proof/Syntax.lean ====
section
/-! DEFINITION. The operations of the Bridge CORE as syntax: ports, channels, counters, the fifteen operations
(one constructor per row of spec/opcode_table.json), and what a port returns (30_encoding.md R80 to R83,
R93). -/

namespace Sys2Proof

/-- The two command ports: `e` of the preemptive event context, `t` of the cooperative tick context
(00_scope.md R10). -/
inductive Port where
  | e
  | t
  deriving DecidableEq, Repr, Inhabited

/-- The two circular channels, by the `ch` bit: 0 is CH_IN, 1 is CH_OUT (30_encoding.md R80). -/
inductive Chan where
  | chIn
  | chOut
  deriving DecidableEq, Repr, Inhabited

/-- The six counters in the order of their indices 0 to 5 (10_state.md R32). -/
inductive Counter where
  | txOk
  | txErr
  | rxOk
  | rxDrop
  | ovfIn
  | ovfOut
  deriving DecidableEq, Repr, Inhabited

/-- The fifteen operations (00_scope.md R12, 30_encoding.md R83). A field is an operand the command word
carries; byte strings, sidebands and the enqueue answer are inputs beside the word (R81). -/
inductive Instr where
  | sysInit
  | chInit (ch : Chan)
  | chAvail (ch : Chan)
  | chRead (ch : Chan) (max : Half)
  | chWrite (ch : Chan) (len : Half)
  | chGetb (ch : Chan)
  | chPutb (ch : Chan) (b : Byte)
  | frmBuild
  | frmParse (count : Half)
  | rxCapture (count : Half)
  | raTick
  | txSend (len : Half)
  | txDone
  | cntRead (index : BitVec 3)
  | cntReset
  deriving DecidableEq, Repr, Inhabited

/-- Why a command word is illegal, by the cases 30_encoding.md R93 lists. -/
inductive IllegalWord where
  /-- `op` is one of the reserved values 0x07, 0x0B, 0x0F, 0x12 to 0x1F. -/
  | reservedOp (op : BitVec 5)
  /-- `rsv` is not zero. -/
  | reservedBits (rsv : BitVec 10)
  /-- `ch = 1` on an operation whose row says `ch = 0`. -/
  | channelBit
  /-- `n`, or the bits of `n` that the row fixes, are not zero. -/
  | operandBits (n : Half)
  /-- CNT.READ with the index 6 or 7. -/
  | counterIndex (index : BitVec 3)
  deriving DecidableEq, Repr

/-- The result fields of FRM.PARSE (41_codec.md R123); `payload` lists payload(i) for 0 <= i < plen. -/
structure ParseFields where
  fc : Byte
  a1 : Addr
  a2 : Addr
  a3 : Addr
  seqno : BitVec 12
  rsv4 : BitVec 4
  plen : Int
  payOff : Nat
  modInd : Byte
  payload : List Byte
  deriving DecidableEq, Repr, Inhabited

/-- The `status` a port returns (30_encoding.md R82). The model refuses the words that the CORE answers with
`illegal` (R93), so no next state holds that value. -/
inductive Status where
  | done
  | illegal
  deriving DecidableEq, Repr

/-- What a port returns for one operation (30_encoding.md R82). -/
structure PortResult where
  status : Status
  rcount : Word
  rok : Bool
  dout : List Byte
  parse : ParseFields
  deriving DecidableEq, Repr

/-- One pulse of `tx_valid`: the frame handed to the wireless transport (30_encoding.md R82). -/
structure TxFrame where
  len : Half
  frame : List Byte
  deriving DecidableEq, Repr

end Sys2Proof
end

