-- ==== Sys2Proof/Config.lean ====
section
/-! DEFINITION. What is fixed when a CORE is configured (00_scope.md R7) and the free values of the model: the
opaque constants behind every value the spec calls unspecified or a draw (00_scope.md R16,
93_implementation_defined.md U1 to U6). -/

namespace Sys2Proof

/-- The parameters of 00_scope.md R7 that are not stated as fixed. The fixed ones (24, 4, 4096, 2, 6) are
numerals of the rules that use them. -/
structure Config where
  /-- `N_IN`, capacity of CH_IN. -/
  nIn : Nat
  /-- `N_OUT`, capacity of CH_OUT. -/
  nOut : Nat
  /-- `MAX_PAYLOAD`. -/
  maxPayload : Nat
  /-- `FILTER_KEY`, latched by SYS.INIT. -/
  filterKey : Addr
  /-- `OWN_ADDR`, latched by SYS.INIT. -/
  ownAddr : Addr
  /-- `FRAME_TYPE_CODE`. -/
  frameTypeCode : Byte
  /-- `BCAST_ADDR`. -/
  bcastAddr : Addr
  /-- `OFF_FC`. -/
  offFc : Nat
  /-- `OFF_DUR`. -/
  offDur : Nat
  /-- `OFF_A1`. -/
  offA1 : Nat
  /-- `OFF_A2`. -/
  offA2 : Nat
  /-- `OFF_A3`. -/
  offA3 : Nat
  /-- `OFF_SEQ`. -/
  offSeq : Nat
  /-- `META_LEN`. -/
  metaLen : Nat
  /-- `MOD_BASELINE`. -/
  modBaseline : Byte
  /-- `MIN_CAPTURE_LEN`. -/
  minCaptureLen : Nat
  /-- `W_CNT`. -/
  wCnt : Nat
  /-- `P_CLR_ON_ENQ_FAIL`. -/
  clrOnEnqFail : Bool
  /-- `P_PREEMPT`. -/
  preempt : Bool
  deriving DecidableEq, Repr

/-- The capacity N(ch) of a channel (00_scope.md R15). -/
def Config.cap (c : Config) : Chan → Nat
  | .chIn => c.nIn
  | .chOut => c.nOut

/-- The header fields as (offset, size) pairs (30_encoding.md R72). -/
def Config.headerFields (c : Config) : List (Nat × Nat) :=
  [(c.offFc, 2), (c.offDur, 2), (c.offA1, 6), (c.offA2, 6), (c.offA3, 6), (c.offSeq, 2)]

/-- The test configuration TC1 of 92_eei_decisions.md D47, with the default header offsets and broadcast address
of 00_scope.md R7. State.reset is stated for it (DESIGN CHOICE, notes/assumptions/2.md); no rule and no
obligation rests on its numbers. -/
def Config.tc1 : Config where
  nIn := 16
  nOut := 16
  maxPayload := 8
  filterKey := ⟨0x02, 0x11, 0x22, 0x33, 0x44, 0x55⟩
  ownAddr := ⟨0x02, 0xAA, 0xBB, 0xCC, 0xDD, 0xEE⟩
  frameTypeCode := 0xD0
  bcastAddr := ⟨0xFF, 0xFF, 0xFF, 0xFF, 0xFF, 0xFF⟩
  offFc := 0
  offDur := 2
  offA1 := 4
  offA2 := 10
  offA3 := 16
  offSeq := 22
  metaLen := 12
  modBaseline := 0
  minCaptureLen := 36
  wCnt := 32
  clrOnEnqFail := false
  preempt := false

/-! ### Free values. Each takes the ticket of the operation that draws it (a counter of State that every
operation advances), so that two operations never share a draw; the second argument, where there is one, is the
position of the byte drawn. Nothing in Lean can evaluate them or prove a value of them (DESIGN CHOICE,
notes/assumptions/5.md). -/

/-- A byte of a channel's `buf` that nothing has written since the last initialisation (U1). -/
opaque Config.freeChanByte : Nat → Nat → Byte

/-- A byte of `pkt_buf` that nothing has written since the last initialisation (U1). -/
opaque Config.freePktByte : Nat → Nat → Byte

/-- A byte of a capture's `body` that the capture does not hold (U5). -/
opaque Config.freeBodyByte : Nat → Nat → Byte

/-- The answer `enq_ok` to an enqueue for which no answer is written down (U6). -/
opaque Config.freeEnqOk : Nat → Bool

/-- `rcount` where the operation's rule does not mention it (U4). -/
opaque Config.freeCount : Nat → Word

/-- `rok` where the operation's rule does not mention it (U4). -/
opaque Config.freeRok : Nat → Bool

/-- `dout` where the operation's rule does not mention it (U4) or calls it unspecified (U3). -/
opaque Config.freeDout : Nat → List Byte

/-- The FRM.PARSE result fields where the operation is not FRM.PARSE (U4). -/
opaque Config.freeParse : Nat → ParseFields

/-- `tx_len` where `24 + L` does not fit its 16 bits: the spec states no value (notes/assumptions/9.md). -/
opaque Config.freeTxLen : Nat → Half

end Sys2Proof
end

