-- ==== Sys2Proof/WellFormed.lean ====
section
/-! DEFINITION. What is well formed: an operation whose operands its row of the opcode map admits
(30_encoding.md R83, R84), and a configuration that meets the constraints of 00_scope.md R7. -/

namespace Sys2Proof

/-- 30_encoding.md R84: CNT.READ needs an index of at most 5. Every other operand admits every value of its
field. -/
def Instr.wf : Instr → Bool
  | .sysInit => true
  | .chInit _ => true
  | .chAvail _ => true
  | .chRead _ _ => true
  | .chWrite _ _ => true
  | .chGetb _ => true
  | .chPutb _ _ => true
  | .frmBuild => true
  | .frmParse _ => true
  | .rxCapture _ => true
  | .raTick => true
  | .txSend _ => true
  | .txDone => true
  | .cntRead index => decide (index.toNat ≤ 5)
  | .cntReset => true

/-- A power of two, at least 2 (00_scope.md R7, R8). -/
def capacityOk (n : Nat) : Bool := decide (2 ≤ n) && decide (2 ^ Nat.log2 n = n)

/-- `MAX_PAYLOAD` is 1 to 65535 (00_scope.md R7). -/
def Config.payloadOk (c : Config) : Bool := decide (1 ≤ c.maxPayload) && decide (c.maxPayload ≤ 65535)

/-- `MIN_CAPTURE_LEN` is at least `META_LEN + 24` (00_scope.md R7). -/
def Config.captureOk (c : Config) : Bool := decide (c.metaLen + 24 ≤ c.minCaptureLen)

/-- `W_CNT` is at least 1 (00_scope.md R7). -/
def Config.widthOk (c : Config) : Bool := decide (1 ≤ c.wCnt)

/-- Two header fields have no byte in common. -/
abbrev apart (f g : Nat × Nat) : Prop := f.1 + f.2 ≤ g.1 ∨ g.1 + g.2 ≤ f.1

/-- The header fields lie inside bytes 0 to 23 and do not overlap (00_scope.md R7). -/
def Config.offsetsOk (c : Config) : Bool :=
  decide (∀ f ∈ c.headerFields, f.1 + f.2 ≤ 24) && decide (c.headerFields.Pairwise apart)

/-- A configuration that describes a CORE (00_scope.md R8). -/
def Config.wf (c : Config) : Bool :=
  capacityOk c.nIn && capacityOk c.nOut && c.payloadOk && c.captureOk && c.widthOk && c.offsetsOk

end Sys2Proof
end

