-- ==== Sys2Proof/Decode.lean ====
section
/-! DEFINITION. The command word: its fields, the opcode map, the decoder (total, rejecting by name) and the
encoder (30_encoding.md part B). -/

namespace Sys2Proof

/-- `op = cw[31:27]` (R80). -/
def fieldOp (cw : Word) : BitVec 5 := cw.extractLsb' 27 5

/-- `ch = cw[26]` (R80). -/
def fieldCh (cw : Word) : BitVec 1 := cw.extractLsb' 26 1

/-- `rsv = cw[25:16]` (R80). -/
def fieldRsv (cw : Word) : BitVec 10 := cw.extractLsb' 16 10

/-- `n = cw[15:0]` (R80). -/
def fieldN (cw : Word) : Half := cw.extractLsb' 0 16

/-- The channel a `ch` bit selects (R80). -/
def chanOfBit (b : BitVec 1) : Chan := if b = 0 then .chIn else .chOut

/-- The `ch` bit of a channel (R80). -/
def chanBit : Chan → BitVec 1
  | .chIn => 0
  | .chOut => 1

/-- A row with `ch` = 0: refuse `ch` = 1 (R93). -/
def withoutChan (cw : Word) (k : Except IllegalWord Instr) : Except IllegalWord Instr :=
  if fieldCh cw = 0 then k else .error .channelBit

/-- A row with `n` = 0: refuse any other `n` (R93). -/
def withoutN (cw : Word) (i : Instr) : Except IllegalWord Instr :=
  if fieldN cw = 0 then .ok i else .error (.operandBits (fieldN cw))

/-- CH.PUTB: the byte is `n[7:0]` and `n[15:8]` is 0 (R83, R93). -/
def decodePutb (cw : Word) : Except IllegalWord Instr :=
  if (fieldN cw).extractLsb' 8 8 = 0 then
    .ok (.chPutb (chanOfBit (fieldCh cw)) ((fieldN cw).extractLsb' 0 8))
  else .error (.operandBits (fieldN cw))

/-- CNT.READ: the index is `n[2:0]`, at most 5, and `n[15:3]` is 0 (R83, R84, R93). -/
def decodeCntRead (cw : Word) : Except IllegalWord Instr :=
  if (fieldN cw).extractLsb' 3 13 = 0 then
    if ((fieldN cw).extractLsb' 0 3).toNat ≤ 5 then .ok (.cntRead ((fieldN cw).extractLsb' 0 3))
    else .error (.counterIndex ((fieldN cw).extractLsb' 0 3))
  else .error (.operandBits (fieldN cw))

/-- The rows of R83 by `op`, for a word whose `rsv` is 0. -/
def decodeOp (cw : Word) : Except IllegalWord Instr :=
  let ch := chanOfBit (fieldCh cw)
  match (fieldOp cw).toNat with
  | 0x00 => withoutChan cw (withoutN cw .sysInit)
  | 0x01 => withoutN cw (.chInit ch)
  | 0x02 => withoutN cw (.chAvail ch)
  | 0x03 => .ok (.chRead ch (fieldN cw))
  | 0x04 => .ok (.chWrite ch (fieldN cw))
  | 0x05 => withoutN cw (.chGetb ch)
  | 0x06 => decodePutb cw
  | 0x08 => withoutChan cw (withoutN cw .frmBuild)
  | 0x09 => withoutChan cw (.ok (.frmParse (fieldN cw)))
  | 0x0A => withoutChan cw (.ok (.rxCapture (fieldN cw)))
  | 0x0C => withoutChan cw (withoutN cw .raTick)
  | 0x0D => withoutChan cw (.ok (.txSend (fieldN cw)))
  | 0x0E => withoutChan cw (withoutN cw .txDone)
  | 0x10 => withoutChan cw (decodeCntRead cw)
  | 0x11 => withoutChan cw (withoutN cw .cntReset)
  | _ => .error (.reservedOp (fieldOp cw))

/-- R84, R93: the operation a command word selects, or the reason the word is illegal. -/
def decode (cw : Word) : Except IllegalWord Instr :=
  if fieldRsv cw = 0 then decodeOp cw else .error (.reservedBits (fieldRsv cw))

/-- `(op << 27) | (ch << 26) | n` (R97); `rsv` is 0. -/
def packWord (op : BitVec 5) (ch : BitVec 1) (n : Half) : Word :=
  op.setWidth 32 <<< 27 ||| ch.setWidth 32 <<< 26 ||| n.setWidth 32

/-- The command word of an operation (R83, R97). -/
def encode : Instr → Word
  | .sysInit => packWord 0x00 0 0
  | .chInit ch => packWord 0x01 (chanBit ch) 0
  | .chAvail ch => packWord 0x02 (chanBit ch) 0
  | .chRead ch max => packWord 0x03 (chanBit ch) max
  | .chWrite ch len => packWord 0x04 (chanBit ch) len
  | .chGetb ch => packWord 0x05 (chanBit ch) 0
  | .chPutb ch b => packWord 0x06 (chanBit ch) (b.setWidth 16)
  | .frmBuild => packWord 0x08 0 0
  | .frmParse count => packWord 0x09 0 count
  | .rxCapture count => packWord 0x0A 0 count
  | .raTick => packWord 0x0C 0 0
  | .txSend len => packWord 0x0D 0 len
  | .txDone => packWord 0x0E 0 0
  | .cntRead index => packWord 0x10 0 (index.setWidth 16)
  | .cntReset => packWord 0x11 0 0

/-- One row of the opcode map: `mask` marks the fixed bits, `pattern` their values (R83). -/
structure OpcodeRow where
  mnemonic : String
  pattern : Word
  mask : Word
  deriving DecidableEq, Repr

/-- R83, the column pair match and mask, row by row. -/
def opcodeMap : List OpcodeRow :=
  [⟨"SYS.INIT", 0x00000000, 0xFFFFFFFF⟩, ⟨"CH.INIT", 0x08000000, 0xFBFFFFFF⟩,
   ⟨"CH.AVAIL", 0x10000000, 0xFBFFFFFF⟩, ⟨"CH.READ", 0x18000000, 0xFBFF0000⟩,
   ⟨"CH.WRITE", 0x20000000, 0xFBFF0000⟩, ⟨"CH.GETB", 0x28000000, 0xFBFFFFFF⟩,
   ⟨"CH.PUTB", 0x30000000, 0xFBFFFF00⟩, ⟨"FRM.BUILD", 0x40000000, 0xFFFFFFFF⟩,
   ⟨"FRM.PARSE", 0x48000000, 0xFFFF0000⟩, ⟨"RX.CAPTURE", 0x50000000, 0xFFFF0000⟩,
   ⟨"RA.TICK", 0x60000000, 0xFFFFFFFF⟩, ⟨"TX.SEND", 0x68000000, 0xFFFF0000⟩,
   ⟨"TX.DONE", 0x70000000, 0xFFFFFFFF⟩, ⟨"CNT.READ", 0x80000000, 0xFFFFFFF8⟩,
   ⟨"CNT.RESET", 0x88000000, 0xFFFFFFFF⟩]

/-- The mnemonic of an operation's row (R83). -/
def Instr.mnemonic : Instr → String
  | .sysInit => "SYS.INIT"
  | .chInit _ => "CH.INIT"
  | .chAvail _ => "CH.AVAIL"
  | .chRead _ _ => "CH.READ"
  | .chWrite _ _ => "CH.WRITE"
  | .chGetb _ => "CH.GETB"
  | .chPutb _ _ => "CH.PUTB"
  | .frmBuild => "FRM.BUILD"
  | .frmParse _ => "FRM.PARSE"
  | .rxCapture _ => "RX.CAPTURE"
  | .raTick => "RA.TICK"
  | .txSend _ => "TX.SEND"
  | .txDone => "TX.DONE"
  | .cntRead _ => "CNT.READ"
  | .cntReset => "CNT.RESET"

/-- R84: the word fits the row. -/
def OpcodeRow.fits (r : OpcodeRow) (cw : Word) : Bool := decide (cw &&& r.mask = r.pattern)

/-- The command word whose low `nbits` bits are `w`, the others 0. -/
def tableWord (nbits w : Nat) : Word := BitVec.ofNat 32 (w % 2 ^ nbits)

/-- The host's view of the decoder: what the command word with these bits decodes to. A command word is a number
with no byte order (R80), so there is nothing to lay out. -/
def decodeTableWord (nbits w : Nat) : Option Instr := (decode (tableWord nbits w)).toOption

end Sys2Proof
end

