-- ==== Sys2Proof/Machine/State.lean ====
section
/-! DEFINITION. The state of the Bridge CORE (10_state.md), its reset value (70_reset_and_hazards.md R201), and
the reasons a step can stop. -/

namespace Sys2Proof.Machine

/-- One of the three private byte arrays (20_memory.md R50): the bytes written since the last initialisation, as
(index, byte) pairs with the indices strictly rising. An unlisted index holds no value of the model's: reading
it is a draw (U1; DESIGN CHOICE, notes/assumptions/4.md). -/
abbrev Memory := List Host.Cell

/-- A circular channel (10_state.md R21 to R24); the indices are held reduced modulo the capacity (DESIGN CHOICE,
notes/assumptions/10.md). -/
structure Channel where
  buf : Memory
  head : Nat
  tail : Nat
  deriving DecidableEq, Repr

/-- The reassembler's two states, WAIT_HEADER = 0 and ACCUMULATE = 1 (10_state.md R27). -/
inductive RsState where
  | waitHeader
  | accumulate
  deriving DecidableEq, Repr

/-- The counter bank, each counter a number below 2 ^ W_CNT (10_state.md R32, 44_counters.md R170). -/
structure Counters where
  txOk : Nat
  txErr : Nat
  rxOk : Nat
  rxDrop : Nat
  ovfIn : Nat
  ovfOut : Nat
  deriving DecidableEq, Repr

/-- The complete architectural state: the tuple of 10_state.md R20. -/
structure CoreState where
  chIn : Channel
  chOut : Channel
  /-- 12-bit sequence counter (R25). -/
  seq : BitVec 12
  /-- The transmit-ready flag (R26). -/
  txReady : Bool
  rsState : RsState
  /-- Length of the packet being accumulated (R28). -/
  expected : Half
  /-- Bytes of it already in `pkt_buf` (R29). -/
  received : Half
  pktBuf : Memory
  cnt : Counters
  filterKey : Addr
  ownAddr : Addr
  deriving DecidableEq, Repr

/-- What the atomic block of TX.SEND answers (43_reassembler.md R153). -/
inductive SendResult where
  | ok
  | failed
  | busy
  deriving DecidableEq, Repr

/-- The micro-step a T-port operation has still to run under `P_PREEMPT` = 1, with the snapshots it carries
(10_state.md R37 (b), 70_reset_and_hazards.md R211; DESIGN CHOICE where R211 does not cut,
notes/assumptions/8.md). `Copy` is u2 and `Publish` is u3 of CH.READ and CH.GETB;
the `tick` steps are those of the CH.READ pairs inside RA.TICK and of its TX.SEND. -/
inductive Micro where
  | readCopy (ch : Chan) (k : Nat)
  | readPublish (ch : Chan) (k : Nat) (data : List Byte)
  | getbCopy (ch : Chan)
  | getbPublish (ch : Chan) (b : Byte)
  | tickHeaderSnap
  | tickHeaderCopy (k : Nat)
  | tickHeaderPublish (k : Nat) (data : List Byte)
  | tickBadLength
  | tickPayloadSnap
  | tickPayloadCopy (k : Nat)
  | tickPayloadPublish (k : Nat) (data : List Byte)
  | tickSend
  | tickCount (r : SendResult)
  | sendCount (r : SendResult)
  deriving DecidableEq, Repr

/-- What an agent presents on a port: the command word, the sidebands of 30_encoding.md R78, the wireless
transport's answer to the one enqueue this operation may attempt (`none`: no answer written down, so the answer
is a draw, R95), and the configuration inputs where the platform has changed them (`none`: it has not), which
SYS.INIT samples (70_reset_and_hazards.md R200, R204; DESIGN CHOICE, notes/assumptions/18.md). The byte strings
come from the port's stream `din` (R81). -/
structure Command where
  cw : Word
  modInd : Byte
  legacyLen : Half
  enq : Option Bool
  conf : Option Config
  deriving DecidableEq, Repr

/-- The operation a step runs: its port, the inputs sampled with it (30_encoding.md R81), and the ticket its
free values are drawn with. -/
structure Presented where
  port : Port
  modInd : Byte
  legacyLen : Half
  enq : Option Bool
  conf : Option Config
  ticket : Nat
  deriving DecidableEq, Repr

/-- A T-port operation in progress. -/
structure InProgress where
  op : Presented
  next : Micro
  deriving DecidableEq, Repr

/-- What waits on a port: the commands not yet issued, oldest first, and the byte stream `din` (R81). -/
structure PortIn where
  cmds : List Command
  din : List Byte
  deriving DecidableEq, Repr

/-- What the ownership rule has to remember of a run (20_memory.md R58, 60_exceptions.md R189): which of the two
exclusive consumers of CH_IN and producers of CH_OUT the run has used, and the port that consumes CH_OUT
(DEDUCED, notes/assumptions/6.md). -/
structure RunUse where
  tick : Bool
  directIn : Bool
  capture : Bool
  directOut : Bool
  outConsumer : Option Port
  deriving DecidableEq, Repr

/-- The rows of the port table 60_exceptions.md R189, by what the operation writes. -/
inductive Access where
  /-- CH.INIT, FRM.BUILD, TX.SEND: port T. -/
  | tickPort
  /-- TX.DONE: port E. -/
  | eventPort
  /-- CH.AVAIL, FRM.PARSE, CNT.READ, CNT.RESET: either port. -/
  | anyPort
  /-- CH.WRITE, CH.PUTB. -/
  | produce (ch : Chan)
  /-- CH.READ, CH.GETB. -/
  | consume (ch : Chan)
  /-- RX.CAPTURE. -/
  | capture
  /-- RA.TICK. -/
  | tick
  deriving DecidableEq, Repr

/-- The reasons a step can fault. No operation of the CORE faults (60_exceptions.md R180); the one fault here
stands for an index the spec gives the array no byte for, and no state with the invariant of Safety.lean
reaches it (DESIGN CHOICE, notes/assumptions/12.md). -/
inductive Fault where
  /-- RA.TICK stores to `pkt_buf` at an index of MAX_PAYLOAD or more (20_memory.md R50, R52). Safe: it stops
  where the spec gives no meaning. -/
  | pktBufOutside (index : Nat)
  deriving DecidableEq, Repr

/-- The reasons a step can be refused. All are safe: the model gives the run no meaning from there on (DESIGN
CHOICE in their names, notes/assumptions/7.md). -/
inductive Refusal where
  /-- An arm of Dispatch.lean with no meaning yet; no arm raises it. Safe. -/
  | notModelled (mnemonic : String)
  /-- Step, or CNT.READ given the index 6 or 7: the word fits no row of the opcode map; the CORE answers
  `status = illegal` with no state change and the model refuses the run (30_encoding.md R93). Safe. -/
  | illegalCommandWord (why : IllegalWord)
  /-- Any operation under a configuration that breaks a constraint of 00_scope.md R7, and SYS.INIT with
  configuration inputs that break one (R8). Safe. -/
  | invalidConfiguration
  /-- Any operation but SYS.INIT before the first SYS.INIT (70_reset_and_hazards.md R202). Safe. -/
  | notInitialised
  /-- An operation on a port that 60_exceptions.md R189 does not bind it to. Safe. -/
  | wrongPort (port : Port)
  /-- A second consumer of CH_IN or producer of CH_OUT: RA.TICK beside CH.READ or CH.GETB on CH_IN, RX.CAPTURE
  beside CH.WRITE or CH.PUTB on CH_OUT, in one run (60_exceptions.md R189). Safe. -/
  | ownershipConflict (ch : Chan)
  /-- `din` holds fewer bytes than the operation takes (93_implementation_defined.md U11). Safe. -/
  | operandStreamShort
  deriving DecidableEq, Repr

/-- The whole state: the configuration, the architectural state, and the model's own fields, which hold what the
spec calls inputs and outputs of a step (10_state.md R38; DESIGN CHOICE, notes/assumptions/3.md) and the hidden
state of a preempted operation (R37). -/
structure State where
  /-- Fixed when the CORE is configured; only SYS.INIT, given changed configuration inputs, replaces it
  (70_reset_and_hazards.md R204). -/
  cfg : Config
  /-- SYS.INIT has run (R202). -/
  initialised : Bool
  core : CoreState
  /-- The T-port operation in progress under `P_PREEMPT` = 1. -/
  inProgress : Option InProgress
  runUse : RunUse
  portE : PortIn
  portT : PortIn
  /-- Which port acts at each coming step: the environment's choice (R38). -/
  turns : List Port
  /-- The operation being run. -/
  cur : Presented
  /-- The next unused ticket for free values. -/
  draws : Nat
  /-- The last result returned on port E. -/
  resE : Option PortResult
  /-- The last result returned on port T. -/
  resT : Option PortResult
  /-- The frame output of this step: a pulse of `tx_valid`, or none. -/
  tx : Option TxFrame
  deriving DecidableEq, Repr

/-- The architectural state right after SYS.INIT (70_reset_and_hazards.md R201, 10_state.md R39). The three byte
arrays list nothing: their contents are unspecified. -/
def CoreState.reset (c : Config) : CoreState where
  chIn := ⟨[], 0, 0⟩
  chOut := ⟨[], 0, 0⟩
  seq := 0
  txReady := true
  rsState := .waitHeader
  expected := 0
  received := 0
  pktBuf := []
  cnt := ⟨0, 0, 0, 0, 0, 0⟩
  filterKey := c.filterKey
  ownAddr := c.ownAddr

/-- The machine right after reset, that is after SYS.INIT, in the configuration TC1, with nothing presented on
either port (DESIGN CHOICE, notes/assumptions/1.md, 2.md and 14.md). -/
def State.reset : State where
  cfg := Config.tc1
  initialised := true
  core := CoreState.reset Config.tc1
  inProgress := none
  runUse := ⟨false, false, false, false, none⟩
  portE := ⟨[], []⟩
  portT := ⟨[], []⟩
  turns := []
  cur := ⟨.t, 0, 0, none, none, 0⟩
  draws := 0
  resE := none
  resT := none
  tx := none

end Sys2Proof.Machine
end

