-- ==== Sys2Proof/Machine/Ops.lean ====
section
/-! DEFINITION. The named operations over the byte arrays, the counters and the channels, the port table, and the
state updates every meaning is written with. The CORE raises nothing (60_exceptions.md R180): there is no
exception to take and none to return from. -/

namespace Sys2Proof.Machine

open Host

/-! ### Byte arrays (20_memory.md R50 to R52) -/

/-- The canonical form: indices strictly rising. An unlisted index has no value, so no entry can equal it. -/
abbrev Memory.wf (m : Memory) : Prop := (m.map Prod.fst).Pairwise (· < ·)

/-- The byte at an index, `none` where nothing has been written since the last initialisation. -/
def Memory.read : Memory → Nat → Option Byte
  | [], _ => none
  | (i, b) :: m, a => if i = a then some b else Memory.read m a

/-- Store one byte, keeping the indices rising. -/
def Memory.write : Memory → Nat → Byte → Memory
  | [], a, v => [(a, v)]
  | (i, b) :: m, a, v =>
    if a < i then (a, v) :: (i, b) :: m
    else if a = i then (a, v) :: m
    else (i, b) :: Memory.write m a v

/-- Store bytes at consecutive indices modulo `n`, from `p` on, in order (R52). -/
def Memory.storeRing (n : Nat) : Memory → Nat → List Byte → Memory
  | m, _, [] => m
  | m, p, b :: bs => Memory.storeRing n (Memory.write m (p % n) b) (p + 1) bs

/-- Store bytes at consecutive indices from `p` on, without wrapping (`pkt_buf`, R52). -/
def Memory.storeRun : Memory → Nat → List Byte → Memory
  | m, _, [] => m
  | m, p, b :: bs => Memory.storeRun (Memory.write m p b) (p + 1) bs

/-! ### Counters (44_counters.md R170) -/

/-- `cnt[c]`. -/
def Counters.get (k : Counters) : Counter → Nat
  | .txOk => k.txOk
  | .txErr => k.txErr
  | .rxOk => k.rxOk
  | .rxDrop => k.rxDrop
  | .ovfIn => k.ovfIn
  | .ovfOut => k.ovfOut

/-- `cnt[c] <- v`. -/
def Counters.set (k : Counters) : Counter → Nat → Counters
  | .txOk, v => { k with txOk := v }
  | .txErr, v => { k with txErr := v }
  | .rxOk, v => { k with rxOk := v }
  | .rxDrop, v => { k with rxDrop := v }
  | .ovfIn, v => { k with ovfIn := v }
  | .ovfOut, v => { k with ovfOut := v }

/-- `cnt[c] +<- v`: one addition modulo 2 ^ W_CNT (00_scope.md R15, R170). -/
def CoreState.bump (cfg : Config) (k : CoreState) (c : Counter) (v : Nat) : CoreState :=
  { k with cnt := k.cnt.set c ((k.cnt.get c + v) % 2 ^ cfg.wCnt) }

/-- The counter an index names (10_state.md R32); 6 and 7 name none (30_encoding.md R84). -/
def counterOf (index : BitVec 3) : Option Counter :=
  match index.toNat with
  | 0 => some .txOk
  | 1 => some .txErr
  | 2 => some .rxOk
  | 3 => some .rxDrop
  | 4 => some .ovfIn
  | 5 => some .ovfOut
  | _ => none

/-! ### Channels (40_channel.md R100) -/

/-- The channel a command's `ch` selects. -/
def CoreState.chan (k : CoreState) : Chan → Channel
  | .chIn => k.chIn
  | .chOut => k.chOut

/-- Replace one channel. -/
def CoreState.setChan (k : CoreState) : Chan → Channel → CoreState
  | .chIn, c => { k with chIn := c }
  | .chOut, c => { k with chOut := c }

/-- OVF(ch): the overflow counter of a channel (R100). -/
def ovfOf : Chan → Counter
  | .chIn => .ovfIn
  | .chOut => .ovfOut

/-- `(head - tail) mod n` for indices below `n` (10_state.md R24). -/
def ringOcc (n head tail : Nat) : Nat := (head + n - tail) % n

/-- occ(ch) (10_state.md R24). -/
def occ (cfg : Config) (k : CoreState) (ch : Chan) : Nat :=
  ringOcc (cfg.cap ch) (k.chan ch).head (k.chan ch).tail

/-- free(ch): one slot is always reserved (10_state.md R24). -/
def free (cfg : Config) (k : CoreState) (ch : Chan) : Nat := cfg.cap ch - 1 - occ cfg k ch

/-- CH.READ u1: how many bytes the read will copy, by the producer's index as it stands now (R103). -/
def readSnap (cfg : Config) (k : CoreState) (ch : Chan) (max : Nat) : Nat := min max (occ cfg k ch)

/-- The byte at one index of a channel's array; an index nothing has written since the last initialisation gives
a draw (U1). -/
def chanByte (ticket : Nat) (c : Channel) (i : Nat) : Byte :=
  (Memory.read c.buf i).getD (Config.freeChanByte ticket i)

/-- CH.READ u2: the `k` oldest bytes, oldest first (R103, 20_memory.md R52). -/
def readCopy (cfg : Config) (ticket : Nat) (s : CoreState) (ch : Chan) (k : Nat) : List Byte :=
  (List.range k).map fun i => chanByte ticket (s.chan ch) (((s.chan ch).tail + i) % cfg.cap ch)

/-- CH.READ u3: publish the new `tail` (R103). -/
def readPublish (cfg : Config) (s : CoreState) (ch : Chan) (k : Nat) : CoreState :=
  s.setChan ch { s.chan ch with tail := ((s.chan ch).tail + k) % cfg.cap ch }

/-- CH.WRITE u1: how many of `len` offered bytes are accepted (R104). -/
def writeAccepts (cfg : Config) (s : CoreState) (ch : Chan) (len : Nat) : Nat := min len (free cfg s ch)

/-- CH.WRITE u2 and u3: store the accepted bytes at the positions from `head` on, then publish the new `head`
(R104). -/
def writeStore (cfg : Config) (s : CoreState) (ch : Chan) (accepted : List Byte) : CoreState :=
  s.setChan ch
    { s.chan ch with
      buf := Memory.storeRing (cfg.cap ch) (s.chan ch).buf (s.chan ch).head accepted
      head := ((s.chan ch).head + accepted.length) % cfg.cap ch }

/-- CH.WRITE of a byte string: the number of bytes accepted, and the state with the first of them stored and the
excess counted (R104). -/
def writeChan (cfg : Config) (s : CoreState) (ch : Chan) (data : List Byte) : Nat × CoreState :=
  let k := writeAccepts cfg s ch data.length
  let stored := writeStore cfg s ch (data.take k)
  (k, if k < data.length then stored.bump cfg (ovfOf ch) (data.length - k) else stored)

/-! ### Free results -/

/-- A port result in which every field the operation's rule does not mention is free (30_encoding.md R82, U4);
`status` is `done`. -/
def freeResult (ticket : Nat) : PortResult where
  status := .done
  rcount := Config.freeCount ticket
  rok := Config.freeRok ticket
  dout := Config.freeDout ticket
  parse := Config.freeParse ticket

/-! ### The port table -/

/-- 60_exceptions.md R189, one clause a row: why an operation of this kind may not be issued on the current port,
or `none`. -/
def portRefusal (u : RunUse) (p : Port) : Access → Option Refusal
  | .tickPort => if p = .t then none else some (.wrongPort p)
  | .eventPort => if p = .e then none else some (.wrongPort p)
  | .anyPort => none
  | .produce .chIn => if p = .e then none else some (.wrongPort p)
  | .produce .chOut =>
    if p = .e then (if u.capture then some (.ownershipConflict .chOut) else none)
    else some (.wrongPort p)
  | .consume .chIn =>
    if p = .t then (if u.tick then some (.ownershipConflict .chIn) else none)
    else some (.wrongPort p)
  | .consume .chOut => if u.outConsumer = none ∨ u.outConsumer = some p then none else some (.wrongPort p)
  | .capture =>
    if p = .e then (if u.directOut then some (.ownershipConflict .chOut) else none)
    else some (.wrongPort p)
  | .tick =>
    if p = .t then (if u.directIn then some (.ownershipConflict .chIn) else none)
    else some (.wrongPort p)

/-- What the run has used once an operation of this kind is issued on port `p` (20_memory.md R58). -/
def RunUse.note (u : RunUse) (p : Port) : Access → RunUse
  | .tickPort => u
  | .eventPort => u
  | .anyPort => u
  | .produce .chIn => u
  | .produce .chOut => { u with directOut := true }
  | .consume .chIn => { u with directIn := true }
  | .consume .chOut => { u with outConsumer := some p }
  | .capture => { u with capture := true }
  | .tick => { u with tick := true }

/-- Why an operation of this kind is refused in this state, or `none`: the configuration (00_scope.md R8), the
initialisation (70_reset_and_hazards.md R202), the port (R189), in this order (DESIGN CHOICE,
notes/assumptions/7.md). -/
def gate (s : State) (a : Access) : Option Refusal :=
  if s.cfg.wf = false then some .invalidConfiguration
  else if s.initialised = false then some .notInitialised
  else portRefusal s.runUse s.cur.port a

/-- SYS.INIT needs no earlier SYS.INIT (R202); it is bound to port T (R189). -/
def gateInit (s : State) : Option Refusal :=
  if s.cfg.wf = false then some .invalidConfiguration
  else portRefusal s.runUse s.cur.port .tickPort

/-- The operation is issued: remember what the run has used. -/
def State.noteUse (s : State) (a : Access) : State :=
  { s with runUse := s.runUse.note s.cur.port a }

/-! ### State updates -/

/-- Replace the architectural state. -/
def State.setCore (s : State) (k : CoreState) : State := { s with core := k }

/-- Return a result on the port of the operation that ends. A T-port operation that ends is no longer in
progress. -/
def State.finish (s : State) (r : PortResult) : State :=
  match s.cur.port with
  | .e => { s with resE := some r }
  | .t => { s with resT := some r, inProgress := none }

/-- Leave the operation in progress, to go on with micro-step `m` (70_reset_and_hazards.md R211). -/
def State.pause (s : State) (m : Micro) : State := { s with inProgress := some ⟨s.cur, m⟩ }

/-- The operation runs as micro-steps: it is on port T and `P_PREEMPT` = 1 (70_reset_and_hazards.md R210). -/
def State.stepwise (s : State) : Bool := s.cfg.preempt && decide (s.cur.port = .t)

end Sys2Proof.Machine
end

