-- ==== Sys2Proof/Machine/Flags.lean ====
section
/-! DEFINITION. The derived flags and the level outputs of the CORE (10_state.md R36): combinational, never
stored. No operation sets condition codes. -/

namespace Sys2Proof.Machine

/-- empty(ch): `head = tail`. -/
def isEmpty (s : CoreState) (ch : Chan) : Bool := decide ((s.chan ch).head = (s.chan ch).tail)

/-- full(ch): `(head + 1) mod N = tail`. -/
def isFull (cfg : Config) (s : CoreState) (ch : Chan) : Bool :=
  decide (((s.chan ch).head + 1) % cfg.cap ch = (s.chan ch).tail)

/-- The level output `out_nonempty`. -/
def State.outNonempty (s : State) : Bool := !isEmpty s.core .chOut

/-- The level output `tx_ready` (30_encoding.md R82). -/
def State.txReadyOut (s : State) : Bool := s.core.txReady

/-- The level output `tx_valid`: a frame is presented in this step (30_encoding.md R82). -/
def State.txValid (s : State) : Bool := s.tx.isSome

end Sys2Proof.Machine
end

