-- ==== Sys2Proof/Machine/Operands.lean ====
section
/-! DEFINITION. Operands and inputs of an operation: the byte-order helpers (20_memory.md R54 to R57), the
operand stream `din`, the sidebands, the enqueue answer (30_encoding.md R77, R78, R81), the configuration inputs
(70_reset_and_hazards.md R204), and the widths of the result fields (30_encoding.md R82). -/

namespace Sys2Proof.Machine

/-- `be16(b0, b1) = 256*b0 + b1` (00_scope.md R14). -/
def be16 (b0 b1 : Byte) : Half := b0 ++ b1

/-- `hi8(v) = v[15:8]` (R14). -/
def hi8 (v : Half) : Byte := v.extractLsb' 8 8

/-- `lo8(v) = v[7:0]` (R14). -/
def lo8 (v : Half) : Byte := v.extractLsb' 0 8

/-- What waits on a port. -/
def State.portIn (s : State) : Port → PortIn
  | .e => s.portE
  | .t => s.portT

/-- Replace what waits on a port. -/
def State.setPortIn (s : State) : Port → PortIn → State
  | .e, p => { s with portE := p }
  | .t, p => { s with portT := p }

/-- Take exactly `n` bytes of the current port's `din`, first byte first (30_encoding.md R81); `none` where the
stream is shorter (U11). -/
def takeDin (n : Nat) (s : State) : Option (List Byte × State) :=
  let p := s.portIn s.cur.port
  if n ≤ p.din.length then
    some (p.din.take n, s.setPortIn s.cur.port { p with din := p.din.drop n })
  else none

/-- `len(body) = max(0, count - META_LEN)` (30_encoding.md R77). -/
def bodyLen (cfg : Config) (count : Half) : Nat := count.toNat - cfg.metaLen

/-- B(i): byte i of a capture's body, a draw where the capture does not hold it (41_codec.md R123). -/
def bodyByte (ticket : Nat) (body : List Byte) (i : Nat) : Byte :=
  (body[i]?).getD (Config.freeBodyByte ticket i)

/-- Six consecutive bytes of a body. -/
def bodyAddr (ticket : Nat) (body : List Byte) (o : Nat) : Addr :=
  ⟨bodyByte ticket body o, bodyByte ticket body (o + 1), bodyByte ticket body (o + 2),
   bodyByte ticket body (o + 3), bodyByte ticket body (o + 4), bodyByte ticket body (o + 5)⟩

/-- The sampled `enq_ok`: the answer written with the command, else a draw (30_encoding.md R81, R95). -/
def enqAnswer (s : State) : Bool := s.cur.enq.getD (Config.freeEnqOk s.cur.ticket)

/-- The configuration inputs as an operation finds them: those the platform has changed, else those of the CORE
as it stands (70_reset_and_hazards.md R204). -/
def State.confIn (s : State) : Config := s.cur.conf.getD s.cfg

/-- A count on the 32-bit output `rcount` (30_encoding.md R82). A count that does not fit is free: the spec
states no value (DESIGN CHOICE, notes/assumptions/9.md). -/
def rcountOf (ticket v : Nat) : Word := if v < 2 ^ 32 then BitVec.ofNat 32 v else Config.freeCount ticket

/-- `tx_len[15:0] = total_len` (30_encoding.md R82). A length that does not fit is free (DESIGN
CHOICE, notes/assumptions/9.md). -/
def txLenOf (ticket v : Nat) : Half := if v < 2 ^ 16 then BitVec.ofNat 16 v else Config.freeTxLen ticket

end Sys2Proof.Machine
end

