-- ==== Sys2Proof/Machine/Channel.lean ====
section
/-! DEFINITION. CircularChannel: CH.INIT, CH.AVAIL, CH.READ, CH.WRITE, CH.GETB, CH.PUTB (40_channel.md). -/

namespace Sys2Proof.Machine

/-- CH.INIT ch (R101): both indices 0, one atomic step; the bytes of `buf` count as unspecified afterwards (U1),
so it lists nothing; no counter is written. -/
def execChInit (ch : Chan) (s : State) : Host.Outcome State Fault Refusal :=
  match gate s .tickPort with
  | some r => .refused r
  | none => .next ((s.setCore (s.core.setChan ch ⟨[], 0, 0⟩)).finish (freeResult s.cur.ticket))

/-- CH.AVAIL ch (R102): `rcount` is the occupancy. -/
def execChAvail (ch : Chan) (s : State) : Host.Outcome State Fault Refusal :=
  match gate s .anyPort with
  | some r => .refused r
  | none =>
    .next (s.finish { freeResult s.cur.ticket with rcount := rcountOf s.cur.ticket (occ s.cfg s.core ch) })

/-- CH.READ u3 with its result: publish `tail`, return the `k` bytes (R103). -/
def endRead (ch : Chan) (k : Nat) (data : List Byte) (s : State) : State :=
  (s.setCore (readPublish s.cfg s.core ch k)).finish
    { freeResult s.cur.ticket with rcount := rcountOf s.cur.ticket k, dout := data }

/-- CH.READ ch, max (R103). -/
def execChRead (ch : Chan) (max : Half) (s : State) : Host.Outcome State Fault Refusal :=
  match gate s (.consume ch) with
  | some r => .refused r
  | none =>
    let k := readSnap s.cfg s.core ch max.toNat
    if s.stepwise then .next ((s.noteUse (.consume ch)).pause (.readCopy ch k))
    else .next (endRead ch k (readCopy s.cfg s.cur.ticket s.core ch k) (s.noteUse (.consume ch)))

/-- CH.WRITE ch, data (R104), `data` being `len` bytes of `din`. Its producer is on port E, so it is one step. -/
def execChWrite (ch : Chan) (len : Half) (s : State) : Host.Outcome State Fault Refusal :=
  match gate s (.produce ch) with
  | some r => .refused r
  | none =>
    match takeDin len.toNat s with
    | none => .refused .operandStreamShort
    | some (data, s1) =>
      .next (((s1.noteUse (.produce ch)).setCore (writeChan s.cfg s.core ch data).2).finish
        { freeResult s.cur.ticket with
          rcount := rcountOf s.cur.ticket (writeChan s.cfg s.core ch data).1 })

/-- CH.GETB u2: the oldest byte (R105). -/
def getbByte (cfg : Config) (ticket : Nat) (k : CoreState) (ch : Chan) : Byte :=
  chanByte ticket (k.chan ch) ((k.chan ch).tail % cfg.cap ch)

/-- CH.GETB u3 with its result (R105). -/
def endGetb (ch : Chan) (b : Byte) (s : State) : State :=
  (s.setCore (readPublish s.cfg s.core ch 1)).finish
    { freeResult s.cur.ticket with rok := true, dout := [b] }

/-- CH.GETB ch (R105): on an empty channel `rok` is 0, `dout` is a draw and nothing changes. -/
def execChGetb (ch : Chan) (s : State) : Host.Outcome State Fault Refusal :=
  match gate s (.consume ch) with
  | some r => .refused r
  | none =>
    if isEmpty s.core ch then
      .next ((s.noteUse (.consume ch)).finish { freeResult s.cur.ticket with rok := false })
    else if s.stepwise then .next ((s.noteUse (.consume ch)).pause (.getbCopy ch))
    else .next (endGetb ch (getbByte s.cfg s.cur.ticket s.core ch) (s.noteUse (.consume ch)))

/-- CH.PUTB ch, b (R106): on a full channel `rok` is 0 and the overflow counter grows by 1. -/
def execChPutb (ch : Chan) (b : Byte) (s : State) : Host.Outcome State Fault Refusal :=
  match gate s (.produce ch) with
  | some r => .refused r
  | none =>
    if isFull s.cfg s.core ch then
      .next (((s.noteUse (.produce ch)).setCore (s.core.bump s.cfg (ovfOf ch) 1)).finish
        { freeResult s.cur.ticket with rok := false })
    else
      .next (((s.noteUse (.produce ch)).setCore (writeStore s.cfg s.core ch [b])).finish
        { freeResult s.cur.ticket with rok := true })

end Sys2Proof.Machine
end

