-- ==== Sys2Proof/Machine/Codec.lean ====
section
/-! DEFINITION. LinkFrameCodec: the header, FRM.BUILD, FRM.PARSE (41_codec.md, 30_encoding.md R72 to R76). -/

namespace Sys2Proof.Machine

/-- The 16-bit sequence field: the number in bits 15:4, zero in bits 3:0 (20_memory.md R55). -/
def seqField (s : BitVec 12) : Half := s ++ (0 : BitVec 4)

/-- Byte `i` of a header (R120): the field that covers it, or 0. -/
def headerByte (cfg : Config) (k : CoreState) (s : BitVec 12) (i : Nat) : Byte :=
  if i = cfg.offFc then cfg.frameTypeCode
  else if cfg.offA1 ≤ i ∧ i < cfg.offA1 + 6 then cfg.bcastAddr.bytes.getD (i - cfg.offA1) 0
  else if cfg.offA2 ≤ i ∧ i < cfg.offA2 + 6 then k.ownAddr.bytes.getD (i - cfg.offA2) 0
  else if cfg.offA3 ≤ i ∧ i < cfg.offA3 + 6 then k.filterKey.bytes.getD (i - cfg.offA3) 0
  else if i = cfg.offSeq then lo8 (seqField s)
  else if i = cfg.offSeq + 1 then hi8 (seqField s)
  else 0

/-- `BuildHeader(s)`: the 24-byte header for sequence number `s` (R120). -/
def buildHeader (cfg : Config) (k : CoreState) (s : BitVec 12) : List Byte :=
  (List.range 24).map (headerByte cfg k s)

/-- `seq <- (s + 1) mod 4096`, which every build call does (R121). -/
def CoreState.advanceSeq (k : CoreState) : CoreState := { k with seq := k.seq + 1 }

/-- FRM.BUILD (R121): the header with `seq` as it stands, then the increment. -/
def execFrmBuild (s : State) : Host.Outcome State Fault Refusal :=
  match gate s .tickPort with
  | some r => .refused r
  | none =>
    .next ((s.setCore s.core.advanceSeq).finish
      { freeResult s.cur.ticket with dout := buildHeader s.cfg s.core s.core.seq })

/-- `plen = legacy_len - 24 - 4` over the integers (R124). -/
def payloadLen (legacyLen : Half) : Int := (legacyLen.toNat : Int) - 24 - 4

/-- The fields of FRM.PARSE (R123). -/
def parseFields (cfg : Config) (op : Presented) (body : List Byte) : ParseFields :=
  let f := be16 (bodyByte op.ticket body (cfg.offSeq + 1)) (bodyByte op.ticket body cfg.offSeq)
  { fc := bodyByte op.ticket body cfg.offFc
    a1 := bodyAddr op.ticket body cfg.offA1
    a2 := bodyAddr op.ticket body cfg.offA2
    a3 := bodyAddr op.ticket body cfg.offA3
    seqno := f.extractLsb' 4 12
    rsv4 := f.extractLsb' 0 4
    plen := payloadLen op.legacyLen
    payOff := cfg.metaLen + 24
    modInd := op.modInd
    payload := (List.range (payloadLen op.legacyLen).toNat).map fun i => bodyByte op.ticket body (24 + i) }

/-- FRM.PARSE count (R123): pure, on either port; the body is `max(0, count - META_LEN)` bytes of `din`. -/
def execFrmParse (count : Half) (s : State) : Host.Outcome State Fault Refusal :=
  match gate s .anyPort with
  | some r => .refused r
  | none =>
    match takeDin (bodyLen s.cfg count) s with
    | none => .refused .operandStreamShort
    | some (body, s1) =>
      .next (s1.finish { freeResult s.cur.ticket with parse := parseFields s.cfg s.cur body })

end Sys2Proof.Machine
end

