-- ==== Sys2Proof/Machine/CounterBank.lean ====
section
/-! DEFINITION. Counters: CNT.READ, CNT.RESET (44_counters.md). -/

namespace Sys2Proof.Machine

/-- CNT.READ index (R171); the indices 6 and 7 make the command word illegal (30_encoding.md R93). -/
def execCntRead (index : BitVec 3) (s : State) : Host.Outcome State Fault Refusal :=
  match gate s .anyPort with
  | some r => .refused r
  | none =>
    match counterOf index with
    | none => .refused (.illegalCommandWord (.counterIndex index))
    | some c =>
      .next (s.finish { freeResult s.cur.ticket with rcount := rcountOf s.cur.ticket (s.core.cnt.get c) })

/-- CNT.RESET (R172): all six counters to 0 in one atomic step, on either port. -/
def execCntReset (s : State) : Host.Outcome State Fault Refusal :=
  match gate s .anyPort with
  | some r => .refused r
  | none =>
    .next ((s.setCore { s.core with cnt := ⟨0, 0, 0, 0, 0, 0⟩ }).finish (freeResult s.cur.ticket))

end Sys2Proof.Machine
end

