-- ==== Sys2Proof/Machine/Filter.lean ====
section
/-! DEFINITION. ReceiveFilterPipeline: RX.CAPTURE (42_filter.md). -/

namespace Sys2Proof.Machine

/-- The stage at which a capture is rejected (R135, R136; EC7 to EC10 of 60_exceptions.md R181). -/
inductive Stage where
  | modulation
  | frameType
  | linkIdentity
  | lengthSanity
  deriving DecidableEq, Repr

/-- The first of the four ordered stages that rejects the capture, or `none` (R136). -/
def rejectedAt (cfg : Config) (k : CoreState) (op : Presented) (count : Half) (body : List Byte) :
    Option Stage :=
  if op.modInd ≠ cfg.modBaseline then some .modulation
  else if count.toNat < cfg.minCaptureLen then some .modulation
  else
    let p := parseFields cfg op body
    if p.fc ≠ cfg.frameTypeCode then some .frameType
    else if p.a3 ≠ k.filterKey then some .linkIdentity
    else if p.plen > cfg.maxPayload ∨ p.plen ≤ 0 then some .lengthSanity
    else none

/-- The bytes an accepted capture appends: the big-endian length, then the payload (R136, R137). -/
def captureData (p : ParseFields) : List Byte :=
  let l := BitVec.ofNat 16 p.plen.toNat
  hi8 l :: lo8 l :: p.payload

/-- RX.CAPTURE count (R136): one step on port E. -/
def execRxCapture (count : Half) (s : State) : Host.Outcome State Fault Refusal :=
  match gate s .capture with
  | some r => .refused r
  | none =>
    match takeDin (bodyLen s.cfg count) s with
    | none => .refused .operandStreamShort
    | some (body, s1) =>
      match rejectedAt s.cfg s.core s.cur count body with
      | some _ =>
        .next (((s1.noteUse .capture).setCore (s.core.bump s.cfg .rxDrop 1)).finish
          { freeResult s.cur.ticket with rok := false, rcount := 0 })
      | none =>
        let w := writeChan s.cfg s.core .chOut (captureData (parseFields s.cfg s.cur body))
        .next (((s1.noteUse .capture).setCore (w.2.bump s.cfg .rxOk 1)).finish
          { freeResult s.cur.ticket with rok := true, rcount := rcountOf s.cur.ticket w.1 })

end Sys2Proof.Machine
end

