-- ==== Sys2Proof/Machine/Reassembler.lean ====
section
/-! DEFINITION. BridgeReassembler: RA.TICK, TX.SEND, TX.DONE (43_reassembler.md). -/

namespace Sys2Proof.Machine

/-! ### The transmit contract (R153) -/

/-- EC4: the payload is empty or longer than MAX_PAYLOAD. -/
def badLength (cfg : Config) (len : Nat) : Bool := decide (len = 0) || decide (cfg.maxPayload < len)

/-- The atomic block of TX.SEND: test `tx_ready`; when it is 1, one build call, the frame presented, the answer
sampled, the flag cleared where R153 says. -/
def sendAttempt (payload : List Byte) (s : State) : SendResult × State :=
  if s.core.txReady = false then (.busy, s)
  else
    let e := enqAnswer s
    (if e then .ok else .failed,
     { s with
       core :=
         { s.core.advanceSeq with
           txReady := if e || s.cfg.clrOnEnqFail then false else s.core.txReady }
       tx := some
         { len := txLenOf s.cur.ticket (24 + payload.length)
           frame := buildHeader s.cfg s.core s.core.seq ++ payload } })

/-- The counter a TX.SEND increments after its atomic block. -/
def sendCounter : SendResult → Counter
  | .ok => .txOk
  | .failed => .txErr
  | .busy => .txErr

/-- The counter increment of TX.SEND. -/
def sendCount (r : SendResult) (s : State) : State := s.setCore (s.core.bump s.cfg (sendCounter r) 1)

/-- The counter increment of TX.SEND and its result. -/
def endSend (r : SendResult) (s : State) : State :=
  (sendCount r s).finish { freeResult s.cur.ticket with rok := decide (r = .ok) }

/-- TX.SEND payload (R153), the payload being `len` bytes of `din`. -/
def execTxSend (len : Half) (s : State) : Host.Outcome State Fault Refusal :=
  match gate s .tickPort with
  | some r => .refused r
  | none =>
    match takeDin len.toNat s with
    | none => .refused .operandStreamShort
    | some (payload, s1) =>
      if badLength s.cfg len.toNat then
        .next ((s1.setCore (s.core.bump s.cfg .txErr 1)).finish
          { freeResult s.cur.ticket with rok := false })
      else
        let a := sendAttempt payload s1
        if s.stepwise then .next (a.2.pause (.sendCount a.1)) else .next (endSend a.1 a.2)

/-! ### The tick (R151) -/

/-- The end of a tick: R151 gives it no result. -/
def endTick (s : State) : State := s.finish (freeResult s.cur.ticket)

/-- `L = be16(b0, b1)` of the two header bytes read (R151). -/
def headerLen (ticket : Nat) (data : List Byte) : Half :=
  be16 ((data[0]?).getD (Config.freeChanByte ticket 0)) ((data[1]?).getD (Config.freeChanByte ticket 1))

/-- EC3: the length is 0 or above MAX_PAYLOAD. -/
def badHeader (cfg : Config) (l : Half) : Bool := badLength cfg l.toNat

/-- `rs_state <- ACCUMULATE ; received <- 0 ; expected <- L`. -/
def CoreState.startPacket (k : CoreState) (l : Half) : CoreState :=
  { k with rsState := .accumulate, received := 0, expected := l }

/-- `expected - received`. -/
def CoreState.wanted (k : CoreState) : Nat := k.expected.toNat - k.received.toNat

/-- The publishing micro-step of the payload read with the register updates attached to it: `tail`, `pkt_buf`,
`received` (R151, R211). An index of MAX_PAYLOAD or more is outside `pkt_buf` (20_memory.md R50). -/
def storePayload (k : Nat) (data : List Byte) (s : State) : Except Fault State :=
  if k ≠ 0 ∧ s.cfg.maxPayload < s.core.received.toNat + k then
    .error (.pktBufOutside (max s.core.received.toNat s.cfg.maxPayload))
  else
    let c := readPublish s.cfg s.core .chIn k
    .ok (s.setCore
      { c with
        pktBuf := Memory.storeRun c.pktBuf c.received.toNat (data.take k)
        received := c.received + BitVec.ofNat 16 k })

/-- `pkt_buf[0 .. expected-1]`; an index nothing has written since the last initialisation gives a draw (U1). -/
def packet (ticket : Nat) (k : CoreState) : List Byte :=
  (List.range k.expected.toNat).map fun i =>
    (Memory.read k.pktBuf i).getD (Config.freePktByte ticket i)

/-- `rs_state <- WAIT_HEADER`. -/
def CoreState.awaitHeader (k : CoreState) : CoreState := { k with rsState := .waitHeader }

/-- The counter increment of the TX.SEND inside a tick, the return to WAIT_HEADER, and the end of the tick. -/
def tickCount (r : SendResult) (s : State) : State :=
  endTick ((sendCount r s).setCore (sendCount r s).core.awaitHeader)

/-- A tick whose TX.SEND finds the length invalid: the count, the return to WAIT_HEADER, the end of the tick. -/
def tickBadSend (s : State) : State :=
  endTick (s.setCore (s.core.bump s.cfg .txErr 1).awaitHeader)

/-- `TX.SEND(pkt_buf[0 .. expected-1]) ; rs_state <- WAIT_HEADER ; end`. -/
def tickSend (s : State) : State :=
  if badLength s.cfg s.core.expected.toNat then tickBadSend s
  else
    let a := sendAttempt (packet s.cur.ticket s.core) s
    tickCount a.1 a.2

/-- The ACCUMULATE part of a tick, from `(k, bytes) <- CH.READ(CH_IN, expected - received)` on. -/
def tickAccumulate (s : State) : Host.Outcome State Fault Refusal :=
  let k := readSnap s.cfg s.core .chIn s.core.wanted
  match storePayload k (readCopy s.cfg s.cur.ticket s.core .chIn k) s with
  | .error f => .fault f
  | .ok s1 => .next (if s1.core.received = s1.core.expected then tickSend s1 else endTick s1)

/-- The discard of an invalid length: one count, the end of the tick. -/
def tickDiscard (s : State) : State := endTick (s.setCore (s.core.bump s.cfg .txErr 1))

/-- The WAIT_HEADER part of a tick. -/
def tickHeader (s : State) : Host.Outcome State Fault Refusal :=
  if occ s.cfg s.core .chIn < 2 then .next (endTick s)
  else
    let k := readSnap s.cfg s.core .chIn 2
    let l := headerLen s.cur.ticket (readCopy s.cfg s.cur.ticket s.core .chIn k)
    let s1 := s.setCore (readPublish s.cfg s.core .chIn k)
    if badHeader s.cfg l then .next (tickDiscard s1)
    else tickAccumulate (s1.setCore (s1.core.startPacket l))

/-- The first micro-step of a tick: CH.AVAIL in WAIT_HEADER, the snapshot of CH.READ in ACCUMULATE (R211). -/
def tickFirst (s : State) : State :=
  match s.core.rsState with
  | .waitHeader => if occ s.cfg s.core .chIn < 2 then endTick s else s.pause .tickHeaderSnap
  | .accumulate => s.pause (.tickPayloadCopy (readSnap s.cfg s.core .chIn s.core.wanted))

/-- RA.TICK (R151). -/
def execRaTick (s : State) : Host.Outcome State Fault Refusal :=
  match gate s .tick with
  | some r => .refused r
  | none =>
    let s1 := s.noteUse .tick
    if s.stepwise then .next (tickFirst s1)
    else
      match s.core.rsState with
      | .waitHeader => tickHeader s1
      | .accumulate => tickAccumulate s1

/-! ### The completion (R154) -/

/-- TX.DONE (R154): `tx_ready <- 1`. -/
def execTxDone (s : State) : Host.Outcome State Fault Refusal :=
  match gate s .eventPort with
  | some r => .refused r
  | none => .next ((s.setCore { s.core with txReady := true }).finish (freeResult s.cur.ticket))

end Sys2Proof.Machine
end

