-- ==== Sys2Proof/Machine/System.lean ====
section
/-! DEFINITION. SYS.INIT, the CORE's only reset (70_reset_and_hazards.md R200). -/

namespace Sys2Proof.Machine

/-- The architectural state SYS.INIT leaves, whatever stood before: the assignments of R200; the three byte arrays
have unspecified contents (U1), so they list nothing. -/
def initCore (cfg : Config) : CoreState where
  chIn := ⟨[], 0, 0⟩
  chOut := ⟨[], 0, 0⟩
  seq := 0
  txReady := true
  rsState := .waitHeader
  expected := 0
  received := 0
  pktBuf := []
  cnt := ⟨0, 0, 0, 0, 0, 0⟩
  filterKey := cfg.filterKey
  ownAddr := cfg.ownAddr

/-- What the ownership rule remembers at the start of a run, which SYS.INIT begins (DEDUCED,
notes/assumptions/6.md). -/
def freshUse : RunUse := ⟨false, false, false, false, none⟩

/-- The CORE of configuration `c`, right after its initialisation. Where `c` differs from the configuration before,
this is the reinitialisation of R204: the key and the address are those of `c`, and with another capacity or
MAX_PAYLOAD it is a new CORE, of which nothing is kept. -/
def State.configure (s : State) (c : Config) : State :=
  { s with cfg := c, core := initCore c, initialised := true, runUse := freshUse }

/-- SYS.INIT (R200, R204): port T, one atomic step; it samples the configuration inputs, which must describe a CORE
(00_scope.md R8). -/
def execSysInit (s : State) : Host.Outcome State Fault Refusal :=
  match gateInit s with
  | some r => .refused r
  | none =>
    if s.confIn.wf = false then .refused .invalidConfiguration
    else .next ((s.configure s.confIn).finish (freeResult s.cur.ticket))

end Sys2Proof.Machine
end

