-- ==== Sys2Proof/Machine/Dispatch.lean ====
section
/-! DEFINITION. One arm per operation: its meaning. -/

namespace Sys2Proof.Machine

def exec (i : Instr) (s : State) : Host.Outcome State Fault Refusal :=
  match i with
  | .sysInit => Sys2Proof.Machine.execSysInit s
  | .chInit ch => Sys2Proof.Machine.execChInit ch s
  | .chAvail ch => Sys2Proof.Machine.execChAvail ch s
  | .chRead ch max => Sys2Proof.Machine.execChRead ch max s
  | .chWrite ch len => Sys2Proof.Machine.execChWrite ch len s
  | .chGetb ch => Sys2Proof.Machine.execChGetb ch s
  | .chPutb ch b => Sys2Proof.Machine.execChPutb ch b s
  | .frmBuild => Sys2Proof.Machine.execFrmBuild s
  | .frmParse count => Sys2Proof.Machine.execFrmParse count s
  | .rxCapture count => Sys2Proof.Machine.execRxCapture count s
  | .raTick => Sys2Proof.Machine.execRaTick s
  | .txSend len => Sys2Proof.Machine.execTxSend len s
  | .txDone => Sys2Proof.Machine.execTxDone s
  | .cntRead index => Sys2Proof.Machine.execCntRead index s
  | .cntReset => Sys2Proof.Machine.execCntReset s

end Sys2Proof.Machine
end

