-- ==== Sys2Proof/Machine/Fetch.lean ====
section
/-! DEFINITION. What the next step does: the port whose turn it is, the command presented there, or the micro-step
of the T-port operation in progress (00_scope.md R10, R11; 60_exceptions.md R184 to R186;
70_reset_and_hazards.md R210). -/

namespace Sys2Proof.Machine

/-- What a step finds to do. -/
inductive Move where
  /-- No agent acts. -/
  | idle (s : State)
  /-- Agent T goes on with its operation. -/
  | resume (m : Micro) (s : State)
  /-- A command word is issued. -/
  | command (cw : Word) (s : State)
  deriving DecidableEq, Repr

/-- Issue a command on a port: its inputs become those of the current operation, with a fresh ticket. -/
def State.present (s : State) (p : Port) (c : Command) : State :=
  { s with cur := ⟨p, c.modInd, c.legacyLen, c.enq, c.conf, s.draws⟩, draws := s.draws + 1 }

/-- The next command of a port is issued; with none waiting the agent does nothing. -/
def issueFrom (p : Port) (s : State) : Move :=
  match (s.portIn p).cmds with
  | [] => .idle s
  | c :: cs => .command c.cw ((s.setPortIn p { s.portIn p with cmds := cs }).present p c)

/-- The step begins: the frame pulse of the step before is over. -/
def State.quiet (s : State) : State := { s with tx := none }

/-- The next move, by the environment's choice of port. An operation in progress on port T goes on before port T
issues another command: the port is not re-entered (43_reassembler.md R150). -/
def fetch (s : State) : Move :=
  match s.turns with
  | [] => .idle s.quiet
  | .e :: ts => issueFrom .e { s.quiet with turns := ts }
  | .t :: ts =>
    match s.inProgress with
    | some q => .resume q.next { s.quiet with turns := ts, cur := q.op }
    | none => issueFrom .t { s.quiet with turns := ts }

/-- The port a command word is placed on to be run: the port R189 binds the operation to (T where either may
issue it, as 30_encoding.md R96 has it). A word that decodes to nothing goes to T. -/
def portFor (u : RunUse) : Except IllegalWord Instr → Port
  | .ok (.chWrite _ _) => .e
  | .ok (.chPutb _ _) => .e
  | .ok (.rxCapture _) => .e
  | .ok .txDone => .e
  | .ok (.chRead .chOut _) => u.outConsumer.getD .t
  | .ok (.chGetb .chOut) => u.outConsumer.getD .t
  | .ok _ => .t
  | .error _ => .t

/-- How many bytes of `din` an operation takes (30_encoding.md R81). -/
def dinNeed (cfg : Config) : Except IllegalWord Instr → Nat
  | .ok (.chWrite _ len) => len.toNat
  | .ok (.txSend len) => len.toNat
  | .ok (.frmParse count) => bodyLen cfg count
  | .ok (.rxCapture count) => bodyLen cfg count
  | .ok _ => 0
  | .error _ => 0

end Sys2Proof.Machine
end

