-- ==== Sys2Proof/Machine/Preempt.lean ====
section
/-! DEFINITION. A T-port operation going on under `P_PREEMPT` = 1: one micro-step (70_reset_and_hazards.md R210,
R211). Between two of them any number of E-port operations may have run; what an earlier micro-step read is used
as it was read. Where R211 does not say where an operation is cut: DESIGN CHOICE, notes/assumptions/8.md. -/

namespace Sys2Proof.Machine

/-- The header read publishes `tail` with the register updates attached to it: the length is taken, and either
the discard is still to be counted or the packet is started (R151, R211). -/
def tickTakeHeader (k : Nat) (data : List Byte) (s : State) : State :=
  let l := headerLen s.cur.ticket data
  let s1 := s.setCore (readPublish s.cfg s.core .chIn k)
  if badHeader s.cfg l then s1.pause .tickBadLength
  else (s1.setCore (s1.core.startPacket l)).pause .tickPayloadSnap

/-- The payload read publishes `tail` with its register updates; a complete packet goes on to TX.SEND. -/
def tickTakePayload (k : Nat) (data : List Byte) (s : State) : Host.Outcome State Fault Refusal :=
  match storePayload k data s with
  | .error f => .fault f
  | .ok s1 => .next (if s1.core.received = s1.core.expected then s1.pause .tickSend else endTick s1)

/-- The TX.SEND of a tick up to its atomic block. -/
def tickAttempt (s : State) : State :=
  if badLength s.cfg s.core.expected.toNat then tickBadSend s
  else
    let a := sendAttempt (packet s.cur.ticket s.core) s
    a.2.pause (.tickCount a.1)

/-- One micro-step of the operation in progress, `s.cur` being that operation. -/
def microStep (m : Micro) (s : State) : Host.Outcome State Fault Refusal :=
  if s.cfg.wf = false then .refused .invalidConfiguration
  else
    match m with
    | .readCopy ch k => .next (s.pause (.readPublish ch k (readCopy s.cfg s.cur.ticket s.core ch k)))
    | .readPublish ch k data => .next (endRead ch k data s)
    | .getbCopy ch => .next (s.pause (.getbPublish ch (getbByte s.cfg s.cur.ticket s.core ch)))
    | .getbPublish ch b => .next (endGetb ch b s)
    | .tickHeaderSnap => .next (s.pause (.tickHeaderCopy (readSnap s.cfg s.core .chIn 2)))
    | .tickHeaderCopy k =>
      .next (s.pause (.tickHeaderPublish k (readCopy s.cfg s.cur.ticket s.core .chIn k)))
    | .tickHeaderPublish k data => .next (tickTakeHeader k data s)
    | .tickBadLength => .next (tickDiscard s)
    | .tickPayloadSnap =>
      .next (s.pause (.tickPayloadCopy (readSnap s.cfg s.core .chIn s.core.wanted)))
    | .tickPayloadCopy k =>
      .next (s.pause (.tickPayloadPublish k (readCopy s.cfg s.cur.ticket s.core .chIn k)))
    | .tickPayloadPublish k data => tickTakePayload k data s
    | .tickSend => .next (tickAttempt s)
    | .tickCount r => .next (tickCount r s)
    | .sendCount r => .next (endSend r s)

end Sys2Proof.Machine
end

