-- ==== Sys2Proof/Machine/Step.lean ====
section
/-! DEFINITION. One step: the operation issued, or the next micro-step of the one in progress. -/

namespace Sys2Proof.Machine

/-- Run a command word: an illegal one is refused (30_encoding.md R93; DESIGN CHOICE, notes/assumptions/11.md). -/
def runWord (cw : Word) (s : State) : Host.Outcome State Fault Refusal :=
  match decode cw with
  | .error e => .refused (.illegalCommandWord e)
  | .ok i => exec i s

/-- One step of the machine. -/
def step (s : State) : Host.Outcome State Fault Refusal :=
  match fetch s with
  | .idle s' => .next s'
  | .resume m s' => microStep m s'
  | .command cw s' => runWord cw s'

/-- The state with the command word placed where the very next step issues it: first on the port that may carry
it, that port's turn first, no T-port operation in progress where that port is T, and as many zero bytes in front
of its `din` as the operation takes. It stands for the agent that presents the command (DESIGN CHOICE,
notes/assumptions/1.md). -/
def State.withFetchWord (s : State) (nbits w : Nat) : State :=
  let cw := tableWord nbits w
  let p := portFor s.runUse (decode cw)
  let q := s.portIn p
  let s1 : State := { s with
    turns := p :: s.turns
    inProgress := match p with
      | .e => s.inProgress
      | .t => none }
  s1.setPortIn p
    { cmds := ⟨cw, 0, 0, none, none⟩ :: q.cmds
      din := List.replicate (dinNeed s.cfg (decode cw)) 0 ++ q.din }

end Sys2Proof.Machine
end

