-- ==== Sys2Proof/Safety.lean ====
section
/-! DEFINITION. What counts as a good state of the Bridge CORE, in the terms the claims use: the legal values of
10_state.md, the channel invariant R24, the reassembler invariant R31, and what an operation in progress may
hold. -/

namespace Sys2Proof.Machine

/-- The bytes a channel holds, oldest first (10_state.md R24); `none` at a position nothing has written since the
last initialisation, which no good state has. -/
def held (cfg : Config) (k : CoreState) (ch : Chan) : List (Option Byte) :=
  (List.range (occ cfg k ch)).map fun i =>
    Memory.read (k.chan ch).buf (((k.chan ch).tail + i) % cfg.cap ch)

/-- The channel invariant (10_state.md R21 to R24): indices reduced, the array canonical and inside its bounds,
every byte between `tail` and `head` written since the last initialisation. -/
def ChannelOk (cfg : Config) (k : CoreState) (ch : Chan) : Prop :=
  (k.chan ch).head < cfg.cap ch ∧ (k.chan ch).tail < cfg.cap ch ∧
  Memory.wf (k.chan ch).buf ∧ (∀ c ∈ (k.chan ch).buf, c.1 < cfg.cap ch) ∧
  ∀ b ∈ held cfg k ch, b.isSome = true

/-- Every counter is below 2 ^ W_CNT (10_state.md R20). -/
def CountersOk (cfg : Config) (k : CoreState) : Prop := ∀ c : Counter, k.cnt.get c < 2 ^ cfg.wCnt

/-- `pkt_buf` is canonical and inside its bounds, and its first `received` bytes are written (R30). -/
def PacketBufferOk (cfg : Config) (k : CoreState) : Prop :=
  Memory.wf k.pktBuf ∧ (∀ c ∈ k.pktBuf, c.1 < cfg.maxPayload) ∧
  (k.rsState = .accumulate → ∀ i, i < k.received.toNat → (Memory.read k.pktBuf i).isSome = true)

/-- `expected` and `received` are at most MAX_PAYLOAD (10_state.md R20). -/
def LengthsOk (cfg : Config) (k : CoreState) : Prop :=
  k.expected.toNat ≤ cfg.maxPayload ∧ k.received.toNat ≤ cfg.maxPayload

/-- What holds of the architectural state at every step, also inside an operation in progress. -/
def CoreOk (cfg : Config) (k : CoreState) : Prop :=
  (∀ ch : Chan, ChannelOk cfg k ch) ∧ CountersOk cfg k ∧ PacketBufferOk cfg k ∧ LengthsOk cfg k

/-- The reassembler invariant between operations (10_state.md R31). -/
def BetweenOk (k : CoreState) : Prop :=
  k.rsState = .accumulate → 1 ≤ k.expected.toNat ∧ k.received.toNat < k.expected.toNat

/-- A pending read on port T: `k` bytes are there, as many as a 16-bit operand can ask for, and port T is the
channel's consumer. -/
def ReadOk (s : State) (ch : Chan) (k : Nat) : Prop :=
  k ≤ occ s.cfg s.core ch ∧ k < 2 ^ 16 ∧ (ch = .chOut → s.runUse.outConsumer = some .t)

/-- Accumulating with the packet incomplete. -/
def PartialOk (k : CoreState) : Prop := k.rsState = .accumulate ∧ k.received.toNat < k.expected.toNat

/-- What a pending micro-step may find: its snapshots cover bytes that are there, and the reassembler stands
where the tick left it. -/
def MicroOk (s : State) : Micro → Prop
  | .readCopy ch k => ReadOk s ch k ∧ BetweenOk s.core
  | .readPublish ch k data => ReadOk s ch k ∧ data.length = k ∧ BetweenOk s.core
  | .getbCopy ch => ReadOk s ch 1 ∧ BetweenOk s.core
  | .getbPublish ch _ => ReadOk s ch 1 ∧ BetweenOk s.core
  | .tickHeaderSnap => ReadOk s .chIn 2 ∧ s.core.rsState = .waitHeader
  | .tickHeaderCopy k => k = 2 ∧ ReadOk s .chIn 2 ∧ s.core.rsState = .waitHeader
  | .tickHeaderPublish k data =>
    k = 2 ∧ data.length = 2 ∧ ReadOk s .chIn 2 ∧ s.core.rsState = .waitHeader
  | .tickBadLength => s.core.rsState = .waitHeader
  | .tickPayloadSnap => PartialOk s.core
  | .tickPayloadCopy k => ReadOk s .chIn k ∧ k ≤ s.core.wanted ∧ PartialOk s.core
  | .tickPayloadPublish k data =>
    ReadOk s .chIn k ∧ data.length = k ∧ k ≤ s.core.wanted ∧ PartialOk s.core
  | .tickSend =>
    s.core.rsState = .accumulate ∧ 1 ≤ s.core.expected.toNat ∧ s.core.received = s.core.expected
  | .tickCount _ => s.core.rsState = .accumulate
  | .sendCount _ => BetweenOk s.core

/-- The reassembler between operations, or the operation in progress on port T. -/
def ProgressOk (s : State) : Prop :=
  match s.inProgress with
  | none => BetweenOk s.core
  | some q => q.op.port = .t ∧ MicroOk s q.next

/-- The invariant: a configuration that describes a CORE; once initialised, a good architectural state and a good
operation in progress; before that, no operation in progress (70_reset_and_hazards.md R202). -/
def Inv (s : State) : Prop :=
  s.cfg.wf = true ∧ (s.initialised = true → CoreOk s.cfg s.core ∧ ProgressOk s) ∧
  (s.initialised = false → s.inProgress = none)

/-- A drained run (70_reset_and_hazards.md R216). -/
def Drained (s : State) : Prop :=
  occ s.cfg s.core .chIn = 0 ∧ s.core.rsState = .waitHeader ∧ occ s.cfg s.core .chOut = 0 ∧
  s.core.txReady = true

/-! ### Terms of the claims about one operation -/

/-- The result last returned on a port. -/
def State.result (s : State) : Port → Option PortResult
  | .e => s.resE
  | .t => s.resT

/-- The CORE is configured and initialised, and the operation is presented on port `p`. -/
def Ready (s : State) (p : Port) : Prop := s.cfg.wf = true ∧ s.initialised = true ∧ s.cur.port = p

/-- The operation may consume from the channel (60_exceptions.md R189, the rows of CH.READ and CH.GETB). -/
def MayConsume (s : State) : Chan → Prop
  | .chIn => Ready s .t ∧ s.runUse.tick = false
  | .chOut => ∃ p, Ready s p ∧ (s.runUse.outConsumer = none ∨ s.runUse.outConsumer = some p)

/-- The operation may produce into the channel (R189, the rows of CH.WRITE and CH.PUTB). -/
def MayProduce (s : State) : Chan → Prop
  | .chIn => Ready s .e
  | .chOut => Ready s .e ∧ s.runUse.capture = false

/-- The bytes of `din` that an operation taking `n` of them takes (30_encoding.md R81). -/
def State.operandBytes (s : State) (n : Nat) : List Byte := (s.portIn s.cur.port).din.take n

/-- `din` of the current port holds at least `n` bytes. -/
def Supplied (s : State) (n : Nat) : Prop := n ≤ (s.portIn s.cur.port).din.length

/-- `t` differs from `s` outside the architectural state, `runUse` and the frame output only by the operation
having ended on its port with the result `r`, `n` bytes of its `din` taken. -/
def Returns (s t : State) (n : Nat) (r : PortResult) : Prop :=
  t.cfg = s.cfg ∧ t.initialised = s.initialised ∧ t.turns = s.turns ∧ t.cur = s.cur ∧ t.draws = s.draws ∧
  t.inProgress = (if s.cur.port = .t then none else s.inProgress) ∧
  t.portIn s.cur.port =
    ⟨(s.portIn s.cur.port).cmds, (s.portIn s.cur.port).din.drop n⟩ ∧
  (∀ p, p ≠ s.cur.port → t.portIn p = s.portIn p) ∧
  t.result s.cur.port = some r ∧ (∀ p, p ≠ s.cur.port → t.result p = s.result p) ∧ r.status = .done

/-- Nothing of the architectural state but the channels and the counters differs. -/
def SameOffChannels (k l : CoreState) : Prop :=
  l.seq = k.seq ∧ l.txReady = k.txReady ∧ l.rsState = k.rsState ∧ l.expected = k.expected ∧
  l.received = k.received ∧ l.pktBuf = k.pktBuf ∧ l.filterKey = k.filterKey ∧ l.ownAddr = k.ownAddr

/-- Of the counters only those in `cs` may differ. -/
def SameCountersBut (cs : List Counter) (k l : CoreState) : Prop :=
  ∀ c, c ∉ cs → l.cnt.get c = k.cnt.get c

/-- The counter has grown by `v` modulo 2 ^ W_CNT. -/
def GrownBy (cfg : Config) (k l : CoreState) (c : Counter) (v : Nat) : Prop :=
  l.cnt.get c = (k.cnt.get c + v) % 2 ^ cfg.wCnt

/-- Channel `ch` has given up its `n` oldest bytes, and nothing else of the channels differs (40_channel.md
R103): only `tail` moved. -/
def Consumed (cfg : Config) (k l : CoreState) (ch : Chan) (n : Nat) : Prop :=
  l.chan ch = { k.chan ch with tail := ((k.chan ch).tail + n) % cfg.cap ch } ∧
  held cfg l ch = (held cfg k ch).drop n ∧ ∀ c, c ≠ ch → l.chan c = k.chan c

/-- Channel `ch` has accepted the bytes of `data` behind those it held (R104): they stand at the positions from
the old `head` on, modulo the capacity; every other position reads as before; nothing else of the channels
differs. -/
def Appended (cfg : Config) (k l : CoreState) (ch : Chan) (data : List Byte) : Prop :=
  held cfg l ch = held cfg k ch ++ data.map some ∧
  (l.chan ch).head = ((k.chan ch).head + data.length) % cfg.cap ch ∧ (l.chan ch).tail = (k.chan ch).tail ∧
  (∀ i x, data[i]? = some x → Memory.read (l.chan ch).buf (((k.chan ch).head + i) % cfg.cap ch) = some x) ∧
  (∀ a, (∀ i, i < data.length → a ≠ ((k.chan ch).head + i) % cfg.cap ch) →
    Memory.read (l.chan ch).buf a = Memory.read (k.chan ch).buf a) ∧
  ∀ c, c ≠ ch → l.chan c = k.chan c

/-- The transmit contract for a payload of valid length (43_reassembler.md R153), from `s` to `t`: busy, or one
build call, one frame presented and one answer `e`, which is the answer written with the command where one is. -/
def Transmits (s t : State) (payload : List Byte) (rok : Bool) : Prop :=
  (s.core.txReady = false →
    t.tx = s.tx ∧ t.core.seq = s.core.seq ∧ t.core.txReady = false ∧ rok = false ∧
    GrownBy s.cfg s.core t.core .txErr 1 ∧ SameCountersBut [.txErr] s.core t.core) ∧
  (s.core.txReady = true →
    (∃ f, t.tx = some f ∧ f.frame = buildHeader s.cfg s.core s.core.seq ++ payload ∧
      (24 + payload.length < 65536 → f.len.toNat = 24 + payload.length)) ∧
    (∀ e, s.cur.enq = some e → rok = e) ∧
    t.core.seq.toNat = (s.core.seq.toNat + 1) % 4096 ∧
    (t.core.txReady = false ↔ rok = true ∨ s.cfg.clrOnEnqFail = true) ∧
    (rok = true → GrownBy s.cfg s.core t.core .txOk 1 ∧ SameCountersBut [.txOk] s.core t.core) ∧
    (rok = false → GrownBy s.cfg s.core t.core .txErr 1 ∧ SameCountersBut [.txErr] s.core t.core))

/-- A whole tick can be issued: the port, the ownership and the setting of `P_PREEMPT` allow it, and the state is
one the CORE can be in between operations. -/
def TickReady (s : State) : Prop :=
  Ready s .t ∧ s.runUse.directIn = false ∧ s.stepwise = false ∧ CoreOk s.cfg s.core ∧ BetweenOk s.core

/-- The port table (60_exceptions.md R189): the port and the use of the run admit the operation. -/
def PortAllows (s : State) : Instr → Prop
  | .sysInit => s.cur.port = .t
  | .chInit _ => s.cur.port = .t
  | .chAvail _ => True
  | .chRead .chIn _ => s.cur.port = .t ∧ s.runUse.tick = false
  | .chRead .chOut _ => s.runUse.outConsumer = none ∨ s.runUse.outConsumer = some s.cur.port
  | .chWrite .chIn _ => s.cur.port = .e
  | .chWrite .chOut _ => s.cur.port = .e ∧ s.runUse.capture = false
  | .chGetb .chIn => s.cur.port = .t ∧ s.runUse.tick = false
  | .chGetb .chOut => s.runUse.outConsumer = none ∨ s.runUse.outConsumer = some s.cur.port
  | .chPutb .chIn _ => s.cur.port = .e
  | .chPutb .chOut _ => s.cur.port = .e ∧ s.runUse.capture = false
  | .frmBuild => s.cur.port = .t
  | .frmParse _ => True
  | .rxCapture _ => s.cur.port = .e ∧ s.runUse.directOut = false
  | .raTick => s.cur.port = .t ∧ s.runUse.directIn = false
  | .txSend _ => s.cur.port = .t
  | .txDone => s.cur.port = .e
  | .cntRead _ => True
  | .cntReset => True

/-- The counters an operation may increment (44_counters.md R173). -/
def countersOf : Instr → List Counter
  | .sysInit => []
  | .chInit _ => []
  | .chAvail _ => []
  | .chRead _ _ => []
  | .chWrite ch _ => [ovfOf ch]
  | .chGetb _ => []
  | .chPutb ch _ => [ovfOf ch]
  | .frmBuild => []
  | .frmParse _ => []
  | .rxCapture _ => [.rxOk, .rxDrop, .ovfOut]
  | .raTick => [.txOk, .txErr]
  | .txSend _ => [.txOk, .txErr]
  | .txDone => []
  | .cntRead _ => []
  | .cntReset => []

/-- The index of a counter (10_state.md R32). -/
def counterIndex : Counter → Nat
  | .txOk => 0
  | .txErr => 1
  | .rxOk => 2
  | .rxDrop => 3
  | .ovfIn => 4
  | .ovfOut => 5

/-- The command the next step issues is `i`. -/
def Issues (s : State) (i : Instr) : Prop := ∃ cw s', fetch s = .command cw s' ∧ decode cw = .ok i

/-- The step is a step of port `p`. -/
def StepsOn (s : State) (p : Port) : Prop := s.turns.head? = some p

/-- The micro-step goes on with a CH.READ or CH.GETB of channel `ch`. -/
def Micro.readsFrom (ch : Chan) : Micro → Bool
  | .readCopy c _ => decide (c = ch)
  | .readPublish c _ _ => decide (c = ch)
  | .getbCopy c => decide (c = ch)
  | .getbPublish c _ => decide (c = ch)
  | .tickHeaderSnap => false
  | .tickHeaderCopy _ => false
  | .tickHeaderPublish _ _ => false
  | .tickBadLength => false
  | .tickPayloadSnap => false
  | .tickPayloadCopy _ => false
  | .tickPayloadPublish _ _ => false
  | .tickSend => false
  | .tickCount _ => false
  | .sendCount _ => false

/-- The micro-step goes on with a RA.TICK. -/
def Micro.ofTick : Micro → Bool
  | .readCopy _ _ => false
  | .readPublish _ _ _ => false
  | .getbCopy _ => false
  | .getbPublish _ _ => false
  | .tickHeaderSnap => true
  | .tickHeaderCopy _ => true
  | .tickHeaderPublish _ _ => true
  | .tickBadLength => true
  | .tickPayloadSnap => true
  | .tickPayloadCopy _ => true
  | .tickPayloadPublish _ _ => true
  | .tickSend => true
  | .tickCount _ => true
  | .sendCount _ => false

/-- The CH.READ or CH.GETB of channel `ch` in progress on port T. -/
def State.readPending (s : State) (ch : Chan) : Option InProgress :=
  s.inProgress.filter fun q => q.next.readsFrom ch

/-- The RA.TICK in progress on port T. -/
def State.tickPending (s : State) : Option InProgress := s.inProgress.filter fun q => q.next.ofTick

/-- The same CORE with the same channel `ch`, the same overflow count of it and the same read of it in progress;
all else may differ. -/
def SameChannel (ch : Chan) (s t : State) : Prop :=
  t.cfg = s.cfg ∧ t.core.chan ch = s.core.chan ch ∧
  t.core.cnt.get (ovfOf ch) = s.core.cnt.get (ovfOf ch) ∧ t.readPending ch = s.readPending ch

/-- From `s` to `t` a step of port T took its turn and presented no frame, and nothing but the architectural
state, the operation in progress, its inputs and the result of port T differs. -/
def TurnTaken (s t : State) : Prop :=
  t.cfg = s.cfg ∧ t.initialised = s.initialised ∧ t.runUse = s.runUse ∧ t.portE = s.portE ∧
  t.portT = s.portT ∧ t.turns = s.turns.tail ∧ t.draws = s.draws ∧ t.resE = s.resE ∧ t.tx = none

/-- The same CORE with the same serial-inbound side: CH_IN, the reassembler, the tick in progress, and what a header
is built from. All else may differ: the transmit-ready flag, CH_OUT, the counters, what is presented. -/
def SameInward (s t : State) : Prop :=
  t.cfg = s.cfg ∧ t.tickPending = s.tickPending ∧ t.core.chIn = s.core.chIn ∧ t.core.rsState = s.core.rsState ∧
  t.core.expected = s.core.expected ∧ t.core.received = s.core.received ∧ t.core.pktBuf = s.core.pktBuf ∧
  t.core.seq = s.core.seq ∧ t.core.filterKey = s.core.filterKey ∧ t.core.ownAddr = s.core.ownAddr

/-! ### Terms of the claims about many operations -/

/-- Operations on one channel, whatever happens to the rest of the machine between them: from `s` to `t`, `n` bytes
are offered, those of `a` accepted and those of `b` delivered, in order (40_channel.md R107, R108). A read runs whole
(`read`, `getb`), or in micro-steps with writes between them (`readStart`, `getbStart`, then `micro`;
70_reset_and_hazards.md R210, R211); none begins while another of the channel is in progress. -/
inductive Traffic (ch : Chan) (s : State) : Nat → List Byte → List Byte → State → Prop where
  | start : Traffic ch s 0 [] [] s
  | write {n : Nat} {a b : List Byte} {u v t : State} {len : Half} {r : PortResult} :
      Traffic ch s n a b u → SameChannel ch u v → exec (.chWrite ch len) v = .next t →
      t.result v.cur.port = some r →
      Traffic ch s (n + len.toNat) (a ++ (v.operandBytes len.toNat).take r.rcount.toNat) b t
  | putb {n : Nat} {a b : List Byte} {u v t : State} {x : Byte} {r : PortResult} :
      Traffic ch s n a b u → SameChannel ch u v → exec (.chPutb ch x) v = .next t →
      t.result v.cur.port = some r →
      Traffic ch s (n + 1) (a ++ if r.rok then [x] else []) b t
  | read {n : Nat} {a b : List Byte} {u v t : State} {max : Half} {r : PortResult} :
      Traffic ch s n a b u → SameChannel ch u v → v.readPending ch = none → v.stepwise = false →
      exec (.chRead ch max) v = .next t →
      t.result v.cur.port = some r →
      Traffic ch s n a (b ++ r.dout) t
  | getb {n : Nat} {a b : List Byte} {u v t : State} {r : PortResult} :
      Traffic ch s n a b u → SameChannel ch u v → v.readPending ch = none → v.stepwise = false →
      exec (.chGetb ch) v = .next t →
      t.result v.cur.port = some r →
      Traffic ch s n a (b ++ if r.rok then r.dout else []) t
  | readStart {n : Nat} {a b : List Byte} {u v t : State} {max : Half} :
      Traffic ch s n a b u → SameChannel ch u v → v.readPending ch = none → v.stepwise = true →
      exec (.chRead ch max) v = .next t → Traffic ch s n a b t
  | getbStart {n : Nat} {a b : List Byte} {u v t : State} :
      Traffic ch s n a b u → SameChannel ch u v → v.readPending ch = none → v.stepwise = true →
      exec (.chGetb ch) v = .next t → Traffic ch s n a b t
  | micro {n : Nat} {a b : List Byte} {u v t : State} {q : InProgress} :
      Traffic ch s n a b u → SameChannel ch u v → v.readPending ch = some q →
      microStep q.next { v with cur := q.op } = .next t →
      Traffic ch s n a
        (b ++ if (t.readPending ch).isSome then [] else (t.result q.op.port).elim [] (·.dout)) t

/-- Serial bytes written into CH_IN, each write accepted whole, and ticks, whatever happens outside the
serial-inbound side between them: from `s` to `t` the bytes of `a` are written and the frames of `fs` presented,
in order (43_reassembler.md R156). A tick runs whole, or its first micro-step (`tick`) and then the others (`micro`)
with any events, writes among them, in between (70_reset_and_hazards.md R213). `tx_ready` is `ready` where the
packet is completed: at every whole tick that consumes a byte and ends in WAIT_HEADER, and at every atomic block. -/
inductive Feed (ready : Bool) (s : State) : List Byte → List TxFrame → State → Prop where
  | start : Feed ready s [] [] s
  | write {a : List Byte} {fs : List TxFrame} {u v t : State} {len : Half} {r : PortResult} :
      Feed ready s a fs u → SameInward u v → exec (.chWrite .chIn len) v = .next t →
      t.result v.cur.port = some r → r.rcount.toNat = len.toNat →
      Feed ready s (a ++ v.operandBytes len.toNat) fs t
  | tick {a : List Byte} {fs : List TxFrame} {u v t : State} :
      Feed ready s a fs u → SameInward u v → v.tx = none → v.tickPending = none → exec .raTick v = .next t →
      (t.core.chIn.tail ≠ v.core.chIn.tail → t.core.rsState = .waitHeader → v.core.txReady = ready) →
      Feed ready s a (fs ++ t.tx.toList) t
  | micro {a : List Byte} {fs : List TxFrame} {u v t : State} {q : InProgress} :
      Feed ready s a fs u → SameInward u v → v.tx = none → v.tickPending = some q →
      microStep q.next { v with cur := q.op } = .next t → (q.next = .tickSend → v.core.txReady = ready) →
      Feed ready s a (fs ++ t.tx.toList) t

/-- A run of steps under the duties of agent W (60_exceptions.md R195) and without SYS.INIT, from a state with
nothing outstanding: `n` enqueued transmissions have not yet been completed. A step whose frame the transport
accepts adds one; a TX.DONE completes one, and comes only while one is outstanding. -/
inductive Outstanding : State → Nat → Prop where
  | start {s : State} : s.core.txReady = true → Outstanding s 0
  | enqueue {s t : State} {n : Nat} :
      Outstanding s n → step s = .next t → ¬ Issues s .txDone → ¬ Issues s .sysInit →
      t.tx.isSome = true → enqAnswer t = true → Outstanding t (n + 1)
  | complete {s t : State} {n : Nat} :
      Outstanding s (n + 1) → step s = .next t → Issues s .txDone → Outstanding t n
  | other {s t : State} {n : Nat} :
      Outstanding s n → step s = .next t → ¬ Issues s .txDone → ¬ Issues s .sysInit →
      (t.tx.isSome = true → enqAnswer t = false) → Outstanding t n

/-- Let the operation in progress on port T run on, at most `n` micro-steps, no event coming between. -/
def runOn : Nat → State → Host.Outcome State Fault Refusal
  | 0, s => .next s
  | n + 1, s =>
    match s.inProgress with
    | none => .next s
    | some q =>
      match microStep q.next { s with cur := q.op } with
      | .next t => runOn n t
      | .fault f => .fault f
      | .refused r => .refused r

/-- The same configuration with `P_PREEMPT` as given. -/
def withPreemptIn (b : Bool) (c : Config) : Config := { c with preempt := b }

/-- The same state under the other setting of `P_PREEMPT`, in the configuration and in the configuration inputs of
the current operation. -/
def State.withPreempt (s : State) (b : Bool) : State :=
  { s with
    cfg := withPreemptIn b s.cfg
    cur := { s.cur with conf := s.cur.conf.map (withPreemptIn b) } }

/-- The next state of an outcome, changed by `f`; a stop stays as it is. -/
def mapNext (f : State → State) : Host.Outcome State Fault Refusal → Host.Outcome State Fault Refusal
  | .next s => .next (f s)
  | .fault r => .fault r
  | .refused r => .refused r

/-- The bytes a preempted operation has copied out of a channel and not yet published are the oldest bytes the
channel holds (70_reset_and_hazards.md R212). -/
def CopiedOk (s : State) : Prop :=
  match s.inProgress with
  | some ⟨_, .readPublish ch k data⟩ => data.map some = (held s.cfg s.core ch).take k
  | some ⟨_, .getbPublish ch b⟩ => [some b] = (held s.cfg s.core ch).take 1
  | some ⟨_, .tickHeaderPublish k data⟩ => data.map some = (held s.cfg s.core .chIn).take k
  | some ⟨_, .tickPayloadPublish k data⟩ => data.map some = (held s.cfg s.core .chIn).take k
  | _ => True

end Sys2Proof.Machine
end

