-- ==== Sys2Proof/Certificates/Slice0/Obligations.lean ====
section
/-! DEFINITION. The statements for the provers. Each docstring names the rule of the spec it rests on. A result is
stated by the fields the rule gives; the fields it does not mention are free and no statement speaks of them. -/

open Sys2Proof Sys2Proof.Machine

/-! ### Encodings -/

/-- 30_encoding.md R83, R97: no bit of an operand is lost on the way through the command word. -/
def Obligations.DecodeEncodeRoundTrip : Prop :=
  ∀ i : Instr, i.wf = true → decode (encode i) = .ok i

/-- 30_encoding.md R80, R83, R93: a word that decodes is the word of its operation, so no bit of it is ignored,
and the operation is well formed. -/
def Obligations.DecodedWordIsItsEncoding : Prop :=
  ∀ (cw : Word) (i : Instr), decode cw = .ok i → encode i = cw ∧ i.wf = true

/-- 30_encoding.md R84, whole: the decoder follows the masks and matches of R83, at most one row fits any word,
and CNT.READ also needs an index of at most 5. -/
def Obligations.DecodeFollowsOpcodeMap : Prop :=
  (∀ (cw : Word) (r q : OpcodeRow), r ∈ opcodeMap → q ∈ opcodeMap → r.fits cw = true → q.fits cw = true →
    r = q) ∧
  (∀ (cw : Word) (i : Instr), decode cw = .ok i →
    ∃ r ∈ opcodeMap, r.fits cw = true ∧ r.mnemonic = i.mnemonic) ∧
  (∀ (cw : Word) (r : OpcodeRow), r ∈ opcodeMap → r.fits cw = true →
    (r.mnemonic = "CNT.READ" → cw.toNat % 8 ≤ 5) → ∃ i, decode cw = .ok i ∧ i.mnemonic = r.mnemonic) ∧
  (∀ cw : Word,
    (∀ r ∈ opcodeMap, r.fits cw = true → r.mnemonic = "CNT.READ" ∧ 5 < cw.toNat % 8) →
    ∃ e, decode cw = .error e)

/-- 30_encoding.md R93: the list of the illegal words, and that the model refuses each by name, whatever the
state. (The port's answer `status = illegal` is not modelled beside the refusal, notes/assumptions/11.md.) -/
def Obligations.IllegalWordsAreRefused : Prop :=
  ∀ (cw : Word) (s : State),
    (((fieldOp cw).toNat = 0x07 ∨ (fieldOp cw).toNat = 0x0B ∨ (fieldOp cw).toNat = 0x0F ∨
        0x12 ≤ (fieldOp cw).toNat) ∨
      fieldRsv cw ≠ 0 ∨
      (fieldCh cw = 1 ∧ (fieldOp cw).toNat ∈ [0x00, 0x08, 0x09, 0x0A, 0x0C, 0x0D, 0x0E, 0x10, 0x11]) ∨
      (fieldN cw ≠ 0 ∧ (fieldOp cw).toNat ∈ [0x00, 0x01, 0x02, 0x05, 0x08, 0x0C, 0x0E, 0x11]) ∨
      (255 < (fieldN cw).toNat ∧ (fieldOp cw).toNat = 0x06) ∨
      (5 < (fieldN cw).toNat ∧ (fieldOp cw).toNat = 0x10)) ↔
    ∃ e, runWord cw s = .refused (.illegalCommandWord e) ∧ decode cw = .error e

/-- 30_encoding.md R97 and the table of 95_test_vectors.md 2.1: words written out from the encoding decode to
their operations. -/
def Obligations.WrittenWordsDecode : Prop :=
  decode 0x20000005 = .ok (.chWrite .chIn 5) ∧ decode 0x1C000010 = .ok (.chRead .chOut 16) ∧
  decode 0x80000003 = .ok (.cntRead 3) ∧ decode 0x60000000 = .ok .raTick ∧
  decode 0x3400000C = .ok (.chPutb .chOut 0x0C) ∧ decode 0x5000002B = .ok (.rxCapture 43) ∧
  decode 0x90000000 = .error (.reservedOp 0x12)

/-! ### The step -/

/-- 00_scope.md R11, 30_encoding.md R80: when it is a port's turn, no operation is in progress there and a
command waits, the step decodes its word and runs that operation, with the command's inputs and a fresh ticket;
an illegal word is refused. -/
def Obligations.StepRunsThePresentedCommand : Prop :=
  ∀ (s : State) (p : Port) (ts : List Port) (c : Command) (cs : List Command),
    s.turns = p :: ts → (p = .t → s.inProgress = none) → (s.portIn p).cmds = c :: cs →
    (∀ i, decode c.cw = .ok i →
      step s = exec i
        ((({ s with turns := ts, tx := none } : State).setPortIn p ⟨cs, (s.portIn p).din⟩).present p c)) ∧
    (∀ e, decode c.cw = .error e → step s = .refused (.illegalCommandWord e))

/-- 70_reset_and_hazards.md R210, R211: a T-port operation in progress goes on with its own inputs before port T
issues another command; with no turn given, or nothing waiting on the port, nothing happens but the end of the
frame pulse. -/
def Obligations.StepResumesOrIdles : Prop :=
  (∀ (s : State) (ts : List Port) (q : InProgress), s.turns = .t :: ts → s.inProgress = some q →
    step s = microStep q.next { s with turns := ts, tx := none, cur := q.op }) ∧
  (∀ s : State, s.turns = [] → step s = .next { s with tx := none }) ∧
  (∀ (s : State) (p : Port) (ts : List Port), s.turns = p :: ts → (p = .t → s.inProgress = none) →
    (s.portIn p).cmds = [] → step s = .next { s with turns := ts, tx := none })

/-! ### Configuration, initialisation, ports -/

/-- 00_scope.md R7, R8: the constraints, and that a configuration that breaks one is given no behaviour. (Changed
configuration inputs that break one: `ReinitialisationTakesOnTheNewInputs`.) -/
def Obligations.BrokenConfigurationIsRefused : Prop :=
  (∀ c : Config, c.wf = true ↔
    ((∃ k, 1 ≤ k ∧ c.nIn = 2 ^ k) ∧ (∃ k, 1 ≤ k ∧ c.nOut = 2 ^ k) ∧
      1 ≤ c.maxPayload ∧ c.maxPayload ≤ 65535 ∧ c.metaLen + 24 ≤ c.minCaptureLen ∧ 1 ≤ c.wCnt ∧
      (∀ f ∈ c.headerFields, f.1 + f.2 ≤ 24) ∧ c.headerFields.Pairwise apart)) ∧
  (∀ (s : State) (i : Instr), s.cfg.wf = false → exec i s = .refused .invalidConfiguration) ∧
  (∀ (s : State) (m : Micro), s.cfg.wf = false → microStep m s = .refused .invalidConfiguration)

/-- 70_reset_and_hazards.md R202: before the first SYS.INIT every other operation is refused. -/
def Obligations.RefusedBeforeInitialisation : Prop :=
  ∀ (s : State) (i : Instr), s.cfg.wf = true → s.initialised = false → i ≠ .sysInit →
    exec i s = .refused .notInitialised

/-- 60_exceptions.md R189: an operation is refused for its port or its use of a channel end exactly where the port
table does not admit it, "in the run" being read as notes/assumptions/6.md says. (That E is idle or masked during
SYS.INIT and CH.INIT holds of every step, since an operation on port E is one step, R210.) -/
def Obligations.PortTableIsEnforced : Prop :=
  ∀ (s : State) (i : Instr), s.cfg.wf = true → s.initialised = true →
    (¬ PortAllows s i ↔
      (∃ p, exec i s = .refused (.wrongPort p)) ∨ ∃ ch, exec i s = .refused (.ownershipConflict ch))

/-- 20_memory.md R58, 60_exceptions.md R189: within a run (from one SYS.INIT to the next, notes/assumptions/6.md)
the consumer of CH_OUT, once an operation has bound it, stays bound, and the two consumers of CH_IN, and the two
producers of CH_OUT, are never both used. -/
def Obligations.ChannelEndsStayBound : Prop :=
  ∀ s t : State, step s = .next t → ¬ Issues s .sysInit →
    (∀ p, s.runUse.outConsumer = some p → t.runUse.outConsumer = some p) ∧
    (∀ p max, StepsOn s p → Issues s (.chRead .chOut max) → t.runUse.outConsumer = some p) ∧
    (∀ p, StepsOn s p → Issues s (.chGetb .chOut) → t.runUse.outConsumer = some p) ∧
    (Issues s .raTick → t.runUse.tick = true) ∧
    (∀ max, Issues s (.chRead .chIn max) → t.runUse.directIn = true) ∧
    (Issues s (.chGetb .chIn) → t.runUse.directIn = true) ∧
    (∀ count, Issues s (.rxCapture count) → t.runUse.capture = true) ∧
    (∀ len, Issues s (.chWrite .chOut len) → t.runUse.directOut = true) ∧
    (∀ b, Issues s (.chPutb .chOut b) → t.runUse.directOut = true) ∧
    (¬ (s.runUse.tick = true ∧ s.runUse.directIn = true) →
      ¬ (t.runUse.tick = true ∧ t.runUse.directIn = true)) ∧
    (¬ (s.runUse.capture = true ∧ s.runUse.directOut = true) →
      ¬ (t.runUse.capture = true ∧ t.runUse.directOut = true))

/-- 93_implementation_defined.md U11, 30_encoding.md R81: an operand stream shorter than its count. -/
def Obligations.ShortOperandStreamIsRefused : Prop :=
  (∀ (s : State) (ch : Chan) (len : Half), MayProduce s ch → ¬ Supplied s len.toNat →
    exec (.chWrite ch len) s = .refused .operandStreamShort) ∧
  (∀ (s : State) (len : Half), Ready s .t → ¬ Supplied s len.toNat →
    exec (.txSend len) s = .refused .operandStreamShort) ∧
  (∀ (s : State) (p : Port) (count : Half), Ready s p → ¬ Supplied s (bodyLen s.cfg count) →
    exec (.frmParse count) s = .refused .operandStreamShort) ∧
  (∀ (s : State) (count : Half), Ready s .e → s.runUse.directOut = false →
    ¬ Supplied s (bodyLen s.cfg count) → exec (.rxCapture count) s = .refused .operandStreamShort)

/-- 70_reset_and_hazards.md R200, R201: what SYS.INIT leaves, from any state of a configured CORE, also before
the first SYS.INIT; the three byte arrays are unspecified and nothing is said of them. The key and the address are
the configuration inputs as SYS.INIT finds them (`confIn`), whatever was latched before, and the CORE is that of
those inputs (R204). That they come with the command is the model's choice, notes/assumptions/18.md. -/
def Obligations.SysInitLeavesResetValues : Prop :=
  ∀ s : State, s.cfg.wf = true → s.confIn.wf = true → s.cur.port = .t →
    ∃ t r, exec .sysInit s = .next t ∧ t.initialised = true ∧
      (∀ ch, (t.core.chan ch).head = 0 ∧ (t.core.chan ch).tail = 0) ∧
      t.core.seq = 0 ∧ t.core.txReady = true ∧ t.core.rsState = .waitHeader ∧ t.core.expected = 0 ∧
      t.core.received = 0 ∧ (∀ c, t.core.cnt.get c = 0) ∧
      t.core.filterKey = s.confIn.filterKey ∧ t.core.ownAddr = s.confIn.ownAddr ∧
      t.outNonempty = false ∧ t.txReadyOut = true ∧ t.tx = s.tx ∧
      Returns { s with initialised := true, cfg := s.confIn } t 0 r

/-- After SYS.INIT the three byte arrays list nothing, which is how the model says that their contents are
unspecified (notes/assumptions/4.md), and the run has used no channel end (notes/assumptions/6.md). -/
def Obligations.SysInitForgetsTheArrays : Prop :=
  ∀ s : State, s.cfg.wf = true → s.confIn.wf = true → s.cur.port = .t →
    ∃ t, exec .sysInit s = .next t ∧
      (∀ ch a, Memory.read (t.core.chan ch).buf a = none) ∧ (∀ a, Memory.read t.core.pktBuf a = none) ∧
      t.runUse.tick = false ∧ t.runUse.directIn = false ∧ t.runUse.capture = false ∧
      t.runUse.directOut = false ∧ t.runUse.outConsumer = none

/-- The state the model starts in holds the values of 70_reset_and_hazards.md R201 for its configuration, which
is the model's choice (notes/assumptions/2.md); the outputs are those R201 derives. -/
def Obligations.ResetHoldsTheResetValues : Prop :=
  State.reset.initialised = true ∧ State.reset.core = initCore State.reset.cfg ∧
  State.reset.outNonempty = false ∧ State.reset.txReadyOut = true ∧ State.reset.txValid = false ∧
  State.reset.inProgress = none

/-! ### Channels -/

/-- 10_state.md R24: occupancy and free space of a channel with legal indices, the two derived flags of R36, and
the bytes held. -/
def Obligations.OccupancyAndFlags : Prop :=
  ∀ (cfg : Config) (k : CoreState) (ch : Chan), 2 ≤ cfg.cap ch → ChannelOk cfg k ch →
    ((occ cfg k ch : Int) = (((k.chan ch).head : Int) - (k.chan ch).tail) % (cfg.cap ch : Int)) ∧
    occ cfg k ch ≤ cfg.cap ch - 1 ∧ occ cfg k ch + free cfg k ch = cfg.cap ch - 1 ∧
    (isEmpty k ch = true ↔ occ cfg k ch = 0) ∧ (isFull cfg k ch = true ↔ free cfg k ch = 0) ∧
    (held cfg k ch).length = occ cfg k ch

/-- 40_channel.md R101: CH.INIT empties the channel and touches no counter and nothing else. That its `buf` then
lists nothing is how the model says that its contents are unspecified (notes/assumptions/4.md). -/
def Obligations.ChInitEmptiesTheChannel : Prop :=
  ∀ (s : State) (ch : Chan), Ready s .t →
    ∃ t r, exec (.chInit ch) s = .next t ∧ (t.core.chan ch).head = 0 ∧ (t.core.chan ch).tail = 0 ∧
      occ t.cfg t.core ch = 0 ∧ (∀ a, Memory.read (t.core.chan ch).buf a = none) ∧
      (∀ c, c ≠ ch → t.core.chan c = s.core.chan c) ∧ t.core.cnt = s.core.cnt ∧
      SameOffChannels s.core t.core ∧ t.tx = s.tx ∧ t.runUse = s.runUse ∧ Returns s t 0 r

/-- 40_channel.md R102: CH.AVAIL returns the occupancy on either port and changes nothing. -/
def Obligations.ChAvailReturnsOccupancy : Prop :=
  ∀ (s : State) (p : Port) (ch : Chan), Ready s p →
    ∃ t r, exec (.chAvail ch) s = .next t ∧ t.core = s.core ∧ t.tx = s.tx ∧ t.runUse = s.runUse ∧
      Returns s t 0 r ∧ (occ s.cfg s.core ch < 2 ^ 32 → r.rcount.toNat = occ s.cfg s.core ch)

/-- 40_channel.md R103: CH.READ as one step delivers the `min(max, occ)` oldest bytes, oldest first, and only
`tail` moves. -/
def Obligations.ChReadDeliversTheOldestBytes : Prop :=
  ∀ (s : State) (ch : Chan) (max : Half), MayConsume s ch → s.stepwise = false →
    ChannelOk s.cfg s.core ch →
    ∃ t r, exec (.chRead ch max) s = .next t ∧
      Consumed s.cfg s.core t.core ch (min max.toNat (occ s.cfg s.core ch)) ∧
      t.core.cnt = s.core.cnt ∧ SameOffChannels s.core t.core ∧ t.tx = s.tx ∧
      t.runUse = s.runUse.note s.cur.port (.consume ch) ∧ Returns s t 0 r ∧
      r.rcount.toNat = min max.toNat (occ s.cfg s.core ch) ∧
      r.dout.map some = (held s.cfg s.core ch).take max.toNat

/-- 40_channel.md R104, whole: CH.WRITE accepts the first `min(len, free)` bytes, stores them from `head` on, and
adds the excess to the channel's overflow counter; only the producer, which is on port E, may issue it. -/
def Obligations.ChWriteAcceptsWhatFits : Prop :=
  (∀ (s : State) (ch : Chan) (len : Half), MayProduce s ch → Supplied s len.toNat →
     ChannelOk s.cfg s.core ch →
     ∃ t r k, exec (.chWrite ch len) s = .next t ∧ k = min len.toNat (free s.cfg s.core ch) ∧
       Appended s.cfg s.core t.core ch ((s.operandBytes len.toNat).take k) ∧
       (k < len.toNat → GrownBy s.cfg s.core t.core (ovfOf ch) (len.toNat - k)) ∧
       (k = len.toNat → t.core.cnt = s.core.cnt) ∧ SameCountersBut [ovfOf ch] s.core t.core ∧
       SameOffChannels s.core t.core ∧ t.tx = s.tx ∧
       t.runUse = s.runUse.note s.cur.port (.produce ch) ∧ Returns s t len.toNat r ∧ r.rcount.toNat = k) ∧
  (∀ (s : State) (ch : Chan) (len : Half), Ready s .t → exec (.chWrite ch len) s = .refused (.wrongPort .t))

/-- 40_channel.md R105: CH.GETB as one step; on an empty channel `rok` is 0 and nothing changes (`dout` is free),
else the oldest byte is delivered. -/
def Obligations.ChGetbDeliversOneByte : Prop :=
  ∀ (s : State) (ch : Chan), MayConsume s ch → s.stepwise = false → ChannelOk s.cfg s.core ch →
    ∃ t r, exec (.chGetb ch) s = .next t ∧ t.core.cnt = s.core.cnt ∧ SameOffChannels s.core t.core ∧
      t.tx = s.tx ∧ t.runUse = s.runUse.note s.cur.port (.consume ch) ∧ Returns s t 0 r ∧
      (occ s.cfg s.core ch = 0 → r.rok = false ∧ t.core = s.core) ∧
      (occ s.cfg s.core ch ≠ 0 → r.rok = true ∧ Consumed s.cfg s.core t.core ch 1 ∧
        r.dout.map some = (held s.cfg s.core ch).take 1)

/-- 40_channel.md R106, whole: CH.PUTB stores the byte, or on a full channel counts one overflow; only the producer,
which is on port E, may issue it. -/
def Obligations.ChPutbStoresOrCounts : Prop :=
  (∀ (s : State) (ch : Chan) (b : Byte), MayProduce s ch → ChannelOk s.cfg s.core ch →
     ∃ t r, exec (.chPutb ch b) s = .next t ∧ SameOffChannels s.core t.core ∧ t.tx = s.tx ∧
       t.runUse = s.runUse.note s.cur.port (.produce ch) ∧
       Returns s t 0 r ∧ SameCountersBut [ovfOf ch] s.core t.core ∧
       (free s.cfg s.core ch ≠ 0 → r.rok = true ∧ Appended s.cfg s.core t.core ch [b] ∧
         t.core.cnt = s.core.cnt) ∧
       (free s.cfg s.core ch = 0 → r.rok = false ∧ GrownBy s.cfg s.core t.core (ovfOf ch) 1 ∧
         ∀ c, t.core.chan c = s.core.chan c)) ∧
  (∀ (s : State) (ch : Chan) (b : Byte), Ready s .t → exec (.chPutb ch b) s = .refused (.wrongPort .t))

/-- 40_channel.md R107: over any operations on one channel, whatever happens to the rest of the machine between
them, what was held and what was accepted since is what was delivered and what is held now, in order. From an empty
channel the bytes delivered are therefore a prefix of the bytes accepted, and all of them once it is empty. Reads
run whole or in micro-steps with writes between them. -/
def Obligations.FifoLaw : Prop :=
  ∀ (ch : Chan) (s t : State) (n : Nat) (a b : List Byte), s.cfg.wf = true → ChannelOk s.cfg s.core ch →
    s.readPending ch = none → Traffic ch s n a b t →
    held s.cfg s.core ch ++ a.map some = b.map some ++ held t.cfg t.core ch ∧
    (occ s.cfg s.core ch = 0 → b <+: a) ∧
    (occ s.cfg s.core ch = 0 → occ t.cfg t.core ch = 0 → b = a)

/-- 40_channel.md R108, whole: a write beyond the free space keeps what is held in front of the bytes that fit,
returns and counts as R108 says and leaves the channel full; and over any operations on one channel the bytes
offered are those accepted and those counted. -/
def Obligations.OverflowLaw : Prop :=
  (∀ (s : State) (ch : Chan) (len : Half), MayProduce s ch → Supplied s len.toNat →
    ChannelOk s.cfg s.core ch → free s.cfg s.core ch < len.toNat →
    ∃ t r, exec (.chWrite ch len) s = .next t ∧ Returns s t len.toNat r ∧
      held t.cfg t.core ch =
        held s.cfg s.core ch ++ ((s.operandBytes len.toNat).take (free s.cfg s.core ch)).map some ∧
      r.rcount.toNat = free s.cfg s.core ch ∧
      GrownBy s.cfg s.core t.core (ovfOf ch) (len.toNat - free s.cfg s.core ch) ∧
      isFull t.cfg t.core ch = true) ∧
  (∀ (ch : Chan) (s t : State) (n : Nat) (a b : List Byte), s.cfg.wf = true → CoreOk s.cfg s.core →
    s.readPending ch = none → Traffic ch s n a b t → a.length ≤ n ∧ GrownBy s.cfg s.core t.core (ovfOf ch) (n - a.length))

/-- 20_memory.md R65: whatever the machine does in one step, each channel has gained bytes behind those it held,
or lost some of the oldest; no byte held is altered, moved or overtaken. -/
def Obligations.ChannelsAreQueues : Prop :=
  ∀ (s t : State) (ch : Chan), Inv s → step s = .next t →
    (∃ xs, held t.cfg t.core ch = held s.cfg s.core ch ++ xs) ∨
    ∃ n, held t.cfg t.core ch = (held s.cfg s.core ch).drop n

/-! ### The codec -/

/-- 41_codec.md R120: the 24 bytes of `BuildHeader(s)`. The two bytes at OFF_SEQ are those of R76, in the order that
20_memory.md R55 takes from general knowledge (PRESUMED, notes/assumptions/15.md). -/
def Obligations.BuildHeaderLayout : Prop :=
  ∀ (cfg : Config) (k : CoreState) (s : BitVec 12), cfg.wf = true →
    (buildHeader cfg k s).length = 24 ∧
    (buildHeader cfg k s)[cfg.offFc]? = some cfg.frameTypeCode ∧
    (buildHeader cfg k s)[cfg.offFc + 1]? = some 0 ∧
    (buildHeader cfg k s)[cfg.offDur]? = some 0 ∧ (buildHeader cfg k s)[cfg.offDur + 1]? = some 0 ∧
    (∀ j, j < 6 → (buildHeader cfg k s)[cfg.offA1 + j]? = cfg.bcastAddr.bytes[j]? ∧
      (buildHeader cfg k s)[cfg.offA2 + j]? = k.ownAddr.bytes[j]? ∧
      (buildHeader cfg k s)[cfg.offA3 + j]? = k.filterKey.bytes[j]?) ∧
    (∃ lo hi : Byte, (buildHeader cfg k s)[cfg.offSeq]? = some lo ∧
      (buildHeader cfg k s)[cfg.offSeq + 1]? = some hi ∧ lo.toNat = (s.toNat % 16) * 16 ∧
      hi.toNat = (s.toNat - s.toNat % 16) / 16)

/-- 41_codec.md R121, whole: FRM.BUILD returns the header of the number `seq` had and advances `seq`; nothing
else changes; port T only. -/
def Obligations.FrmBuildTakesANumber : Prop :=
  (∀ s : State, Ready s .t →
     ∃ t r, exec .frmBuild s = .next t ∧ t.core = { s.core with seq := t.core.seq } ∧
       t.core.seq.toNat = (s.core.seq.toNat + 1) % 4096 ∧ t.tx = s.tx ∧ t.runUse = s.runUse ∧
       Returns s t 0 r ∧ r.dout = buildHeader s.cfg s.core s.core.seq) ∧
  (∀ s : State, Ready s .e → exec .frmBuild s = .refused (.wrongPort .e))

/-- 41_codec.md R122: at every step that is not SYS.INIT either there is no build call and `seq` stays, or there
is one, its header carries the value `seq` had, and `seq` has grown by 1 modulo 4096, whatever the transport
answers. -/
def Obligations.SequenceNumberLaw : Prop :=
  ∀ s t : State, step s = .next t → ¬ Issues s .sysInit →
    (t.core.seq = s.core.seq ∧ t.tx = none ∧ ¬ Issues s .frmBuild) ∨
    (t.core.seq.toNat = (s.core.seq.toNat + 1) % 4096 ∧
      ((∃ len payload, t.tx = some ⟨len, buildHeader s.cfg s.core s.core.seq ++ payload⟩) ∨
        (Issues s .frmBuild ∧ ∃ r, t.resT = some r ∧ r.dout = buildHeader s.cfg s.core s.core.seq)))

/-- 41_codec.md R123: FRM.PARSE changes no state and returns the fields of the bytes the capture holds; a field
byte the capture does not hold is free. Which byte of the sequence field lies lower is 20_memory.md R55's, from
general knowledge (PRESUMED, notes/assumptions/15.md). -/
def Obligations.FrmParseReturnsTheFields : Prop :=
  ∀ (s : State) (p : Port) (count : Half), Ready s p → Supplied s (bodyLen s.cfg count) →
    ∃ t r body, body = s.operandBytes (bodyLen s.cfg count) ∧ exec (.frmParse count) s = .next t ∧
      t.core = s.core ∧ t.tx = s.tx ∧ t.runUse = s.runUse ∧ Returns s t (bodyLen s.cfg count) r ∧
      (∀ x, body[s.cfg.offFc]? = some x → r.parse.fc = x) ∧
      (∀ j x, j < 6 → body[s.cfg.offA1 + j]? = some x → r.parse.a1.bytes[j]? = some x) ∧
      (∀ j x, j < 6 → body[s.cfg.offA2 + j]? = some x → r.parse.a2.bytes[j]? = some x) ∧
      (∀ j x, j < 6 → body[s.cfg.offA3 + j]? = some x → r.parse.a3.bytes[j]? = some x) ∧
      (∀ lo hi, body[s.cfg.offSeq]? = some lo → body[s.cfg.offSeq + 1]? = some hi →
        256 * hi.toNat + lo.toNat = 16 * r.parse.seqno.toNat + r.parse.rsv4.toNat) ∧
      r.parse.plen = (s.cur.legacyLen.toNat : Int) - 28 ∧ r.parse.payOff = s.cfg.metaLen + 24 ∧
      r.parse.modInd = s.cur.modInd ∧ r.parse.payload.length = r.parse.plen.toNat ∧
      (∀ i x, i < r.parse.plen.toNat → body[24 + i]? = some x → r.parse.payload[i]? = some x)

/-- 41_codec.md R124: the payload length is taken over the integers and never wraps. -/
def Obligations.PayloadLengthNeverWraps : Prop :=
  ∀ l : Half, payloadLen l = (l.toNat : Int) - 28 ∧ -28 ≤ payloadLen l ∧ payloadLen l ≤ 65507 ∧
    (l.toNat < 28 → payloadLen l < 0)

/-- 41_codec.md R120, R123; 30_encoding.md R76: parsing what build wrote gives the fields back. Which byte of the
sequence field lies lower is R55's, from general knowledge (PRESUMED, notes/assumptions/15.md). -/
def Obligations.ParseReadsWhatBuildWrote : Prop :=
  ∀ (cfg : Config) (k : CoreState) (s : BitVec 12) (op : Presented) (rest : List Byte), cfg.wf = true →
    (parseFields cfg op (buildHeader cfg k s ++ rest)).fc = cfg.frameTypeCode ∧
    (parseFields cfg op (buildHeader cfg k s ++ rest)).a1 = cfg.bcastAddr ∧
    (parseFields cfg op (buildHeader cfg k s ++ rest)).a2 = k.ownAddr ∧
    (parseFields cfg op (buildHeader cfg k s ++ rest)).a3 = k.filterKey ∧
    (parseFields cfg op (buildHeader cfg k s ++ rest)).seqno = s ∧
    (parseFields cfg op (buildHeader cfg k s ++ rest)).rsv4 = 0

/-! ### The receive filter -/

/-- 42_filter.md R138, whole, with the counts of R135: a capture is accepted exactly where the five conditions
hold; accepted, it counts one `RX_OK` and no `RX_DROP`; rejected, it writes nothing to CH_OUT and counts exactly
one `RX_DROP`. -/
def Obligations.FilterAcceptanceLaw : Prop :=
  ∀ (s : State) (count : Half), Ready s .e → s.runUse.directOut = false →
    Supplied s (bodyLen s.cfg count) →
    ∃ t r body, body = s.operandBytes (bodyLen s.cfg count) ∧ exec (.rxCapture count) s = .next t ∧
      Returns s t (bodyLen s.cfg count) r ∧ SameOffChannels s.core t.core ∧ t.core.chIn = s.core.chIn ∧
      t.tx = s.tx ∧ t.runUse = s.runUse.note s.cur.port .capture ∧
      (r.rok = true ↔
        s.cur.modInd = s.cfg.modBaseline ∧ s.cfg.minCaptureLen ≤ count.toNat ∧
        body[s.cfg.offFc]? = some s.cfg.frameTypeCode ∧
        (∀ j, j < 6 → body[s.cfg.offA3 + j]? = s.core.filterKey.bytes[j]?) ∧
        1 ≤ (s.cur.legacyLen.toNat : Int) - 28 ∧ (s.cur.legacyLen.toNat : Int) - 28 ≤ s.cfg.maxPayload) ∧
      (r.rok = true → GrownBy s.cfg s.core t.core .rxOk 1 ∧
        SameCountersBut [.rxOk, .ovfOut] s.core t.core) ∧
      (r.rok = false → r.rcount = 0 ∧ t.core.chOut = s.core.chOut ∧
        GrownBy s.cfg s.core t.core .rxDrop 1 ∧ SameCountersBut [.rxDrop] s.core t.core)

/-- 42_filter.md R137, R140: an accepted capture appends to CH_OUT, under the channel's own rule, the big-endian
length and that many payload bytes; a payload byte the capture does not hold may be any byte. -/
def Obligations.AcceptedCaptureIsAppended : Prop :=
  ∀ (s t : State) (count : Half) (r : PortResult), ChannelOk s.cfg s.core .chOut →
    exec (.rxCapture count) s = .next t → t.resE = some r → r.rok = true →
    ∃ (l : Half) (payload data : List Byte) (k : Nat),
      l.toNat = s.cur.legacyLen.toNat - 28 ∧ payload.length = l.toNat ∧ data = hi8 l :: lo8 l :: payload ∧
      (∀ i x, i < l.toNat → (s.operandBytes (bodyLen s.cfg count))[24 + i]? = some x →
        payload[i]? = some x) ∧
      k = min (2 + l.toNat) (free s.cfg s.core .chOut) ∧ r.rcount.toNat = k ∧
      Appended s.cfg s.core t.core .chOut (data.take k) ∧
      (k < 2 + l.toNat → GrownBy s.cfg s.core t.core .ovfOut (2 + l.toNat - k)) ∧
      (k = 2 + l.toNat → t.core.cnt.get .ovfOut = s.core.cnt.get .ovfOut)

/-- 60_exceptions.md R192, R195 and step 4 of program P5 of 95_test_vectors.md, the capturing side: RX.CAPTURE of a
frame that another CORE with the same key, type code and layout built, presented as the transport's duties say, adds
the very bytes of the packet to CH_OUT. -/
def Obligations.PeerFrameIsCapturedWhole : Prop :=
  ∀ (x y : State) (s : BitVec 12) (payload fcs : List Byte) (count l : Half), x.cfg.wf = true →
    y.cfg.headerFields = x.cfg.headerFields → y.cfg.frameTypeCode = x.cfg.frameTypeCode →
    y.core.filterKey = x.core.filterKey → Ready y .e → y.runUse.directOut = false →
    ChannelOk y.cfg y.core .chOut →
    (y.portIn .e).din = buildHeader x.cfg x.core s ++ payload ++ fcs →
    bodyLen y.cfg count = 24 + payload.length + fcs.length → y.cfg.minCaptureLen ≤ count.toNat →
    y.cur.modInd = y.cfg.modBaseline → y.cur.legacyLen.toNat = 24 + payload.length + 4 →
    l.toNat = payload.length → 1 ≤ payload.length → payload.length ≤ y.cfg.maxPayload →
    2 + payload.length ≤ free y.cfg y.core .chOut →
    ∃ t, exec (.rxCapture count) y = .next t ∧
      held t.cfg t.core .chOut =
        held y.cfg y.core .chOut ++ ([hi8 l, lo8 l] ++ payload).map some ∧
      GrownBy y.cfg y.core t.core .rxOk 1

/-! ### The reassembler and the transmit contract -/

/-- 43_reassembler.md R151, 70_reset_and_hazards.md R215: from a good state a tick always goes on, under either
setting of `P_PREEMPT`. -/
def Obligations.RaTickCompletes : Prop :=
  ∀ s : State, Ready s .t → s.runUse.directIn = false → CoreOk s.cfg s.core → BetweenOk s.core →
    ∃ t, exec .raTick s = .next t

/-- 43_reassembler.md R152, whole: a tick that finds too little changes nothing, or takes what is there into
`pkt_buf` and changes nothing else. -/
def Obligations.TickPersistence : Prop :=
  (∀ s : State, TickReady s → s.core.rsState = .waitHeader → occ s.cfg s.core .chIn < 2 →
    ∃ t r, exec .raTick s = .next t ∧ t.core = s.core ∧ t.tx = s.tx ∧
      t.runUse = s.runUse.note s.cur.port .tick ∧ Returns s t 0 r) ∧
  (∀ s : State, TickReady s → s.core.rsState = .accumulate → occ s.cfg s.core .chIn = 0 →
    ∃ t r, exec .raTick s = .next t ∧ t.core = s.core ∧ t.tx = s.tx ∧
      t.runUse = s.runUse.note s.cur.port .tick ∧ Returns s t 0 r) ∧
  (∀ (s : State) (k : Nat), TickReady s → s.core.rsState = .accumulate → k = occ s.cfg s.core .chIn →
    0 < k → k < s.core.expected.toNat - s.core.received.toNat →
    ∃ t r, exec .raTick s = .next t ∧ Consumed s.cfg s.core t.core .chIn k ∧
      t.core.received.toNat = s.core.received.toNat + k ∧
      (∀ i, i < k → some (Memory.read t.core.pktBuf (s.core.received.toNat + i)) =
        (held s.cfg s.core .chIn)[i]?) ∧
      (∀ a, (a < s.core.received.toNat ∨ s.core.received.toNat + k ≤ a) →
        Memory.read t.core.pktBuf a = Memory.read s.core.pktBuf a) ∧
      t.core.rsState = .accumulate ∧ t.core.expected = s.core.expected ∧ t.core.seq = s.core.seq ∧
      t.core.txReady = s.core.txReady ∧ t.core.cnt = s.core.cnt ∧
      t.core.filterKey = s.core.filterKey ∧ t.core.ownAddr = s.core.ownAddr ∧ t.tx = s.tx ∧
      t.runUse = s.runUse.note s.cur.port .tick ∧ Returns s t 0 r)

/-- 43_reassembler.md R157, whole: a length of 0 or above MAX_PAYLOAD is discarded, two bytes are consumed, one
`TX_ERR` is counted, and the next two bytes are the next header. -/
def Obligations.MalformedHeaderLaw : Prop :=
  ∀ (s : State) (b0 b1 : Byte), TickReady s → s.core.rsState = .waitHeader →
    (held s.cfg s.core .chIn).take 2 = [some b0, some b1] →
    (256 * b0.toNat + b1.toNat = 0 ∨ s.cfg.maxPayload < 256 * b0.toNat + b1.toNat) →
    ∃ t r, exec .raTick s = .next t ∧ Consumed s.cfg s.core t.core .chIn 2 ∧
      SameOffChannels s.core t.core ∧ GrownBy s.cfg s.core t.core .txErr 1 ∧
      SameCountersBut [.txErr] s.core t.core ∧ t.tx = s.tx ∧
      t.runUse = s.runUse.note s.cur.port .tick ∧ Returns s t 0 r

/-- 43_reassembler.md R151, decision D23: a tick that accepts a header goes on to accumulate in the same tick, as
if the tick had begun with the two bytes consumed and the packet started. -/
def Obligations.TickGoesOnAfterAHeader : Prop :=
  ∀ (s : State) (b0 b1 : Byte), TickReady s → s.core.rsState = .waitHeader →
    (held s.cfg s.core .chIn).take 2 = [some b0, some b1] → 1 ≤ 256 * b0.toNat + b1.toNat →
    256 * b0.toNat + b1.toNat ≤ s.cfg.maxPayload →
    ∃ k : CoreState, exec .raTick s = exec .raTick (s.setCore k) ∧
      Consumed s.cfg s.core k .chIn 2 ∧ k.rsState = .accumulate ∧ k.received = 0 ∧
      k.expected.toNat = 256 * b0.toNat + b1.toNat ∧ k.pktBuf = s.core.pktBuf ∧ k.cnt = s.core.cnt ∧
      k.seq = s.core.seq ∧ k.txReady = s.core.txReady ∧ k.filterKey = s.core.filterKey ∧
      k.ownAddr = s.core.ownAddr

/-- 43_reassembler.md R151, R153: a tick that completes the packet hands exactly its bytes to the transmit
contract and returns to WAIT_HEADER, whatever the contract answers. -/
def Obligations.TickCompletesThePacket : Prop :=
  ∀ s : State, TickReady s → s.core.rsState = .accumulate →
    s.core.expected.toNat - s.core.received.toNat ≤ occ s.cfg s.core .chIn →
    ∃ t r payload rok, exec .raTick s = .next t ∧
      Consumed s.cfg s.core t.core .chIn (s.core.expected.toNat - s.core.received.toNat) ∧
      payload.length = s.core.expected.toNat ∧
      (∀ i, i < s.core.received.toNat → Memory.read s.core.pktBuf i = payload[i]?) ∧
      (∀ i, i < s.core.expected.toNat - s.core.received.toNat →
        (held s.cfg s.core .chIn)[i]? = some payload[s.core.received.toNat + i]?) ∧
      Transmits s t payload rok ∧ t.core.rsState = .waitHeader ∧ t.core.expected = s.core.expected ∧
      t.core.received = s.core.expected ∧
      (∀ i, i < s.core.expected.toNat → Memory.read t.core.pktBuf i = payload[i]?) ∧
      (∀ a, s.core.expected.toNat ≤ a → Memory.read t.core.pktBuf a = Memory.read s.core.pktBuf a) ∧
      t.core.filterKey = s.core.filterKey ∧ t.core.ownAddr = s.core.ownAddr ∧
      t.runUse = s.runUse.note s.cur.port .tick ∧ Returns s t 0 r

/-- 43_reassembler.md R153, whole: TX.SEND as one step. An empty or oversized payload fails with nothing touched
but `TX_ERR`; else the transmit contract. -/
def Obligations.TxSendContract : Prop :=
  ∀ (s : State) (len : Half), Ready s .t → s.stepwise = false → Supplied s len.toNat →
    ∃ t r, exec (.txSend len) s = .next t ∧ Returns s t len.toNat r ∧ t.runUse = s.runUse ∧
      t.core = { s.core with seq := t.core.seq, txReady := t.core.txReady, cnt := t.core.cnt } ∧
      (len.toNat = 0 ∨ s.cfg.maxPayload < len.toNat →
        r.rok = false ∧ t.tx = s.tx ∧ t.core.seq = s.core.seq ∧ t.core.txReady = s.core.txReady ∧
        GrownBy s.cfg s.core t.core .txErr 1 ∧ SameCountersBut [.txErr] s.core t.core) ∧
      (1 ≤ len.toNat → len.toNat ≤ s.cfg.maxPayload →
        Transmits s t (s.operandBytes len.toNat) r.rok)

/-- 43_reassembler.md R154, whole: TX.DONE sets the flag, whatever it was, and changes nothing else; port E
only; besides SYS.INIT no other operation, whole or in micro-steps, sets it. -/
def Obligations.TxDoneSetsTheFlag : Prop :=
  (∀ s : State, Ready s .e →
     ∃ t r, exec .txDone s = .next t ∧ t.core.txReady = true ∧
       t.core = { s.core with txReady := t.core.txReady } ∧ t.tx = s.tx ∧ t.runUse = s.runUse ∧
       Returns s t 0 r) ∧
  (∀ s : State, Ready s .t → exec .txDone s = .refused (.wrongPort .t)) ∧
  (∀ (s t : State) (i : Instr), exec i s = .next t → i ≠ .txDone → i ≠ .sysInit → s.core.txReady = false →
    t.core.txReady = false) ∧
  (∀ (s t : State) (m : Micro), microStep m s = .next t → s.core.txReady = false → t.core.txReady = false)

/-- 43_reassembler.md R155, whole: under the duties of the wireless transport at most one enqueued transmission is
outstanding, for either setting of `P_CLR_ON_ENQ_FAIL` and of `P_PREEMPT`; a packet completed while `tx_ready` is 0
is dropped and counted. -/
def Obligations.OneOutstandingTransmission : Prop :=
  (∀ (s : State) (n : Nat), Outstanding s n → n ≤ 1 ∧ (n = 1 → s.core.txReady = false)) ∧
  (∀ s : State, TickReady s → s.core.rsState = .accumulate →
    s.core.expected.toNat - s.core.received.toNat ≤ occ s.cfg s.core .chIn → s.core.txReady = false →
    ∃ t, exec .raTick s = .next t ∧ t.tx = s.tx ∧ t.core.rsState = .waitHeader ∧ t.core.txReady = false ∧
      t.core.seq = s.core.seq ∧ GrownBy s.cfg s.core t.core .txErr 1 ∧
      SameCountersBut [.txErr] s.core t.core)

/-- 43_reassembler.md R156, whole: a packet written into the empty serial-inbound channel, in any pieces and with
any ticks between them, gives once drained exactly one frame, the header, then the very payload, where `tx_ready`
is 1 when the packet is completed, and no transmit call where it is 0. Ticks run whole or in micro-steps, the writes
and other events falling between those as they may (70_reset_and_hazards.md R213). -/
def Obligations.EndToEndLaw : Prop :=
  ∀ (s t : State) (payload : List Byte) (l : Half) (ready : Bool) (fs : List TxFrame), s.cfg.wf = true →
    CoreOk s.cfg s.core → s.tickPending = none → s.core.rsState = .waitHeader →
    occ s.cfg s.core .chIn = 0 → l.toNat = payload.length → 1 ≤ payload.length → payload.length ≤ s.cfg.maxPayload →
    Feed ready s ([hi8 l, lo8 l] ++ payload) fs t → occ t.cfg t.core .chIn = 0 →
    t.core.rsState = .waitHeader →
    (ready = true → ∃ f, fs = [f] ∧ f.frame = buildHeader s.cfg s.core s.core.seq ++ payload ∧
      (24 + payload.length < 65536 → f.len.toNat = 24 + payload.length)) ∧
    (ready = false → fs = [])

/-- 70_reset_and_hazards.md R216: from a drained state a tick changes nothing, under either setting of
`P_PREEMPT`. -/
def Obligations.DrainedTickChangesNothing : Prop :=
  ∀ s : State, Ready s .t → s.runUse.directIn = false → Drained s →
    ∃ t r, exec .raTick s = .next t ∧ t.core = s.core ∧ t.tx = s.tx ∧
      t.runUse = s.runUse.note s.cur.port .tick ∧ Returns s t 0 r

/-! ### The counters -/

/-- 44_counters.md R171: CNT.READ returns the counter of its index on either port and changes nothing. The indices 6
and 7 make the word illegal (30_encoding.md R93); that the model then refuses, and does not answer
`status = illegal`, is its choice (notes/assumptions/11.md). -/
def Obligations.CntReadReturnsTheCounter : Prop :=
  (∀ (s : State) (p : Port) (c : Counter) (index : BitVec 3), Ready s p → index.toNat = counterIndex c →
    ∃ t r, exec (.cntRead index) s = .next t ∧ t.core = s.core ∧ t.tx = s.tx ∧ t.runUse = s.runUse ∧
      Returns s t 0 r ∧ (s.core.cnt.get c < 2 ^ 32 → r.rcount.toNat = s.core.cnt.get c)) ∧
  (∀ (s : State) (p : Port) (index : BitVec 3), Ready s p → 5 < index.toNat →
    exec (.cntRead index) s = .refused (.illegalCommandWord (.counterIndex index)))

/-- 44_counters.md R172, whole: CNT.RESET zeroes all six counters in one step on either port and changes nothing
else. -/
def Obligations.CntResetZeroesAll : Prop :=
  ∀ (s : State) (p : Port), Ready s p →
    ∃ t r, exec .cntReset s = .next t ∧ (∀ c, t.core.cnt.get c = 0) ∧
      t.core = { s.core with cnt := t.core.cnt } ∧ t.tx = s.tx ∧ t.runUse = s.runUse ∧ Returns s t 0 r

/-- 44_counters.md R173, the table: an operation increments only counters that it is listed for, and the micro-steps
of port T only `TX_OK` and `TX_ERR`. -/
def Obligations.OperationsIncrementOnlyTheirCounters : Prop :=
  (∀ (s t : State) (i : Instr), exec i s = .next t → i ≠ .sysInit → i ≠ .cntReset →
    SameCountersBut (countersOf i) s.core t.core) ∧
  (∀ (s t : State) (m : Micro), microStep m s = .next t → SameCountersBut [.txOk, .txErr] s.core t.core)

/-! ### The whole machine -/

/-- The invariant of Safety.lean holds of the state the model starts in. -/
def Obligations.ResetMeetsTheInvariant : Prop := Inv State.reset

/-- 10_state.md R24, R31: every step, of either port, whole or micro-step, keeps the invariant. -/
def Obligations.StepKeepsTheInvariant : Prop := ∀ s t : State, Inv s → step s = .next t → Inv t

/-- 60_exceptions.md R180, 20_memory.md R52: from a good state no step faults. -/
def Obligations.GoodStateNeverFaults : Prop := ∀ (s : State) (f : Fault), Inv s → step s ≠ .fault f

/-- 10_state.md R33, R34, 70_reset_and_hazards.md R204: only SYS.INIT writes the filter key and the own address, and
it copies the configuration inputs: those the platform has changed, else those of the CORE as it stands. Only
SYS.INIT takes on another configuration. That changed inputs come with the command, and that the other parameters
take effect at SYS.INIT too, is the model's choice (notes/assumptions/18.md). -/
def Obligations.KeyAndAddressOnlyByInit : Prop :=
  ∀ s t : State, step s = .next t →
    (¬ Issues s .sysInit → t.core.filterKey = s.core.filterKey ∧ t.core.ownAddr = s.core.ownAddr ∧
      t.initialised = s.initialised ∧ t.cfg = s.cfg) ∧
    (Issues s .sysInit → ∃ c cs, (s.portIn .t).cmds = c :: cs ∧ t.cfg = c.conf.getD s.cfg ∧
      t.core.filterKey = t.cfg.filterKey ∧ t.core.ownAddr = t.cfg.ownAddr ∧ t.initialised = true)

/-- 10_state.md R40: what a step of agent E leaves to agent T. -/
def Obligations.EventStepsKeepTickState : Prop :=
  ∀ s t : State, step s = .next t → StepsOn s .e →
    t.core.chIn.tail = s.core.chIn.tail ∧ t.core.rsState = s.core.rsState ∧
    t.core.expected = s.core.expected ∧ t.core.received = s.core.received ∧
    t.core.pktBuf = s.core.pktBuf ∧ t.core.seq = s.core.seq ∧ t.tx = none ∧
    (t.core.txReady = s.core.txReady ∨ (t.core.txReady = true ∧ Issues s .txDone)) ∧
    (t.core.chOut.tail = s.core.chOut.tail ∨ Issues s (.chGetb .chOut) ∨
      ∃ max, Issues s (.chRead .chOut max)) ∧
    (Issues s .cntReset ∨ SameCountersBut [.rxOk, .rxDrop, .ovfIn, .ovfOut] s.core t.core)

/-- 10_state.md R40: what a step of agent T, SYS.INIT and CH.INIT apart, leaves to agent E: it never sets the
transmit-ready flag and never moves a `head` or stores into a channel. -/
def Obligations.TickStepsKeepEventState : Prop :=
  ∀ s t : State, step s = .next t → StepsOn s .t → ¬ Issues s .sysInit → (∀ ch, ¬ Issues s (.chInit ch)) →
    (∀ ch, (t.core.chan ch).head = (s.core.chan ch).head ∧ (t.core.chan ch).buf = (s.core.chan ch).buf) ∧
    (s.core.txReady = false → t.core.txReady = false) ∧
    (t.core.txReady = s.core.txReady ∨ t.tx.isSome = true) ∧
    (Issues s .cntReset ∨ SameCountersBut [.txOk, .txErr] s.core t.core)

/-! ### Preemption -/

/-- 70_reset_and_hazards.md R210, R211: under `P_PREEMPT` = 1 the first micro-step of a longer operation on port T
takes its snapshot (or, for TX.SEND, runs the atomic block) and leaves the operation in progress. -/
def Obligations.PreemptedOperationsStart : Prop :=
  (∀ (s : State) (ch : Chan) (max : Half), MayConsume s ch → s.stepwise = true →
    ∃ t, exec (.chRead ch max) s = .next t ∧ t.core = s.core ∧ t.resT = s.resT ∧ t.tx = s.tx ∧
      t.inProgress = some ⟨s.cur, .readCopy ch (min max.toNat (occ s.cfg s.core ch))⟩) ∧
  (∀ (s : State) (ch : Chan), MayConsume s ch → s.stepwise = true →
    (s.core.chan ch).head ≠ (s.core.chan ch).tail →
    ∃ t, exec (.chGetb ch) s = .next t ∧ t.core = s.core ∧ t.resT = s.resT ∧ t.tx = s.tx ∧
      t.inProgress = some ⟨s.cur, .getbCopy ch⟩) ∧
  (∀ (s : State) (len : Half), Ready s .t → s.stepwise = true → Supplied s len.toNat → 1 ≤ len.toNat →
    len.toNat ≤ s.cfg.maxPayload → s.core.txReady = false →
    ∃ t, exec (.txSend len) s = .next t ∧ t.core = s.core ∧ t.resT = s.resT ∧ t.tx = s.tx ∧
      t.inProgress = some ⟨s.cur, .sendCount .busy⟩)

/-- 70_reset_and_hazards.md R214: with no event in between, an operation run in micro-steps ends in the very state
and with the very result of the operation run as one step. -/
def Obligations.PreemptSettingsAgree : Prop :=
  ∀ (i : Instr) (s : State), s.inProgress = none →
    (match exec i (s.withPreempt true) with
      | .next t => runOn 8 t
      | .fault f => .fault f
      | .refused r => .refused r) =
    mapNext (fun t => t.withPreempt true) (exec i (s.withPreempt false))

/-- 60_exceptions.md R186: an operation on port E leaves the T-port operation in progress at the micro-step it was
at, with its snapshots unchanged. -/
def Obligations.EventsLeaveSnapshots : Prop :=
  ∀ s t : State, step s = .next t → StepsOn s .e → t.inProgress = s.inProgress

/-- 70_reset_and_hazards.md R212: at every step, whatever events come between, the bytes a preempted read has
copied are the oldest bytes its channel holds. What publishing then delivers is the next statement. -/
def Obligations.CopiedBytesStayTheOldest : Prop :=
  ∀ s t : State, Inv s → CopiedOk s → step s = .next t → CopiedOk t

/-- 70_reset_and_hazards.md R211, R212, vector H1 of 95_test_vectors.md: the micro-step that publishes, whatever
events have come since the bytes were copied, consumes from its channel exactly the bytes it delivers: CH.READ and
CH.GETB return them, the tick takes its length from them or stores them in `pkt_buf`. The invariant and `CopiedOk`,
which every step keeps, are the premises. That publishing an invalid length prefix moves no counter and leaves the
`TX_ERR` increment a micro-step of its own (`tickBadLength`) is the model's choice, notes/assumptions/8.md: R211 does
not say where that increment falls. -/
def Obligations.PublishingDeliversTheCopiedBytes : Prop :=
  (∀ (s : State) (ts : List Port) (op : Presented) (ch : Chan) (k : Nat) (data : List Byte), Inv s →
    CopiedOk s → s.turns = .t :: ts → s.inProgress = some ⟨op, .readPublish ch k data⟩ →
    ∃ t r, step s = .next t ∧ Consumed s.cfg s.core t.core ch k ∧ t.core.cnt = s.core.cnt ∧
      SameOffChannels s.core t.core ∧ TurnTaken s t ∧ t.inProgress = none ∧ t.resT = some r ∧
      r.rcount.toNat = k ∧ r.dout = data ∧ data.map some = (held s.cfg s.core ch).take k ∧
      data.length = k) ∧
  (∀ (s : State) (ts : List Port) (op : Presented) (ch : Chan) (b : Byte), Inv s → CopiedOk s →
    s.turns = .t :: ts → s.inProgress = some ⟨op, .getbPublish ch b⟩ →
    ∃ t r, step s = .next t ∧ Consumed s.cfg s.core t.core ch 1 ∧ t.core.cnt = s.core.cnt ∧
      SameOffChannels s.core t.core ∧ TurnTaken s t ∧ t.inProgress = none ∧ t.resT = some r ∧
      r.rok = true ∧ r.dout = [b] ∧ [some b] = (held s.cfg s.core ch).take 1) ∧
  (∀ (s : State) (ts : List Port) (op : Presented) (k : Nat) (data : List Byte), Inv s → CopiedOk s →
    s.turns = .t :: ts → s.inProgress = some ⟨op, .tickHeaderPublish k data⟩ →
    ∃ t b0 b1, step s = .next t ∧ data = [b0, b1] ∧
      (held s.cfg s.core .chIn).take 2 = [some b0, some b1] ∧ Consumed s.cfg s.core t.core .chIn 2 ∧
      t.core.cnt = s.core.cnt ∧ TurnTaken s t ∧ t.resT = s.resT ∧
      (256 * b0.toNat + b1.toNat = 0 ∨ s.cfg.maxPayload < 256 * b0.toNat + b1.toNat →
        t.inProgress = some ⟨op, .tickBadLength⟩ ∧ SameOffChannels s.core t.core) ∧
      (1 ≤ 256 * b0.toNat + b1.toNat → 256 * b0.toNat + b1.toNat ≤ s.cfg.maxPayload →
        t.inProgress = some ⟨op, .tickPayloadSnap⟩ ∧ t.core.rsState = .accumulate ∧
        t.core.received = 0 ∧ t.core.expected.toNat = 256 * b0.toNat + b1.toNat ∧
        SameOffChannels s.core
          { t.core with
            rsState := s.core.rsState, received := s.core.received, expected := s.core.expected })) ∧
  (∀ (s : State) (ts : List Port) (op : Presented) (k : Nat) (data : List Byte), Inv s → CopiedOk s →
    s.turns = .t :: ts → s.inProgress = some ⟨op, .tickPayloadPublish k data⟩ →
    ∃ t, step s = .next t ∧ Consumed s.cfg s.core t.core .chIn k ∧
      data.map some = (held s.cfg s.core .chIn).take k ∧ data.length = k ∧
      t.core.received.toNat = s.core.received.toNat + k ∧
      (∀ i, i < k → Memory.read t.core.pktBuf (s.core.received.toNat + i) = data[i]?) ∧
      (∀ a, (a < s.core.received.toNat ∨ s.core.received.toNat + k ≤ a) →
        Memory.read t.core.pktBuf a = Memory.read s.core.pktBuf a) ∧
      SameOffChannels s.core { t.core with received := s.core.received, pktBuf := s.core.pktBuf } ∧
      t.core.cnt = s.core.cnt ∧ TurnTaken s t ∧
      (s.core.received.toNat + k = s.core.expected.toNat →
        t.inProgress = some ⟨op, .tickSend⟩ ∧ t.resT = s.resT) ∧
      (s.core.received.toNat + k < s.core.expected.toNat → t.inProgress = none))

/-! ### Reinitialisation -/

/-- 70_reset_and_hazards.md R204, R200, 00_scope.md R8: SYS.INIT issued with configuration inputs `d` that the
platform has changed, in a good state with nothing in progress on port T, makes the CORE of `d` as it is right after
its initialisation, in place of the one before, whatever that held (a key, a capacity, bytes, a packet); the
environment is as it was but for the turn and the command taken. Inputs that describe no CORE are refused. That the
changed inputs come with the command, and that a broken one is refused there, is the model's choice
(notes/assumptions/7.md, 18.md). -/
def Obligations.ReinitialisationTakesOnTheNewInputs : Prop :=
  ∀ (s : State) (ts : List Port) (c : Command) (cs : List Command) (d : Config), Inv s → s.turns = .t :: ts →
    s.inProgress = none → (s.portIn .t).cmds = c :: cs → decode c.cw = .ok .sysInit → c.conf = some d →
    (d.wf = true → ∃ t r, step s = .next t ∧ Inv t ∧ t.cfg = d ∧ t.core = initCore d ∧ t.initialised = true ∧
      t.inProgress = none ∧ t.runUse = freshUse ∧ t.turns = ts ∧ t.portE = s.portE ∧
      t.portT = ⟨cs, s.portT.din⟩ ∧ t.draws = s.draws + 1 ∧ t.resE = s.resE ∧ t.resT = some r ∧
      r.status = .done ∧ t.tx = none) ∧
    (d.wf = false → step s = .refused .invalidConfiguration)
end

