-- ==== Sys2Proof/Laws/Encoding.lean ====
section
/-! SUPPORT. The fields of a packed command word (30_encoding.md R80, R97). -/

namespace Sys2Proof

/-- Bit `i` of a packed word. -/
theorem getLsbD_packWord (op : BitVec 5) (ch : BitVec 1) (n : Half) (i : Nat) (hi : i < 32) :
    (packWord op ch n).getLsbD i =
      if i < 16 then n.getLsbD i else if i < 26 then false
      else if i < 27 then ch.getLsbD (i - 26) else op.getLsbD (i - 27) := by
  have hop : ∀ j, 5 ≤ j → op.getLsbD j = false := fun j hj => BitVec.getLsbD_of_ge op j hj
  have hch : ∀ j, 1 ≤ j → ch.getLsbD j = false := fun j hj => BitVec.getLsbD_of_ge ch j hj
  have hn : ∀ j, 16 ≤ j → n.getLsbD j = false := fun j hj => BitVec.getLsbD_of_ge n j hj
  simp only [packWord, BitVec.getLsbD_or, BitVec.getLsbD_shiftLeft, BitVec.getLsbD_setWidth]
  split_ifs with h1 h2 h3
  · simp [hi, show i < 27 by omega, show i < 26 by omega]
  · simp [show i < 27 by omega, h2, hn i (by omega)]
  · simp [hi, h3, h2, show i - 26 < 32 by omega, hn i (by omega)]
  · simp [hi, h3, h2, show i - 27 < 32 by omega, hn i (by omega), hch (i - 26) (by omega)]

theorem fieldOp_packWord (op : BitVec 5) (ch : BitVec 1) (n : Half) : fieldOp (packWord op ch n) = op := by
  apply BitVec.eq_of_getLsbD_eq
  intro i hi
  simp only [fieldOp, BitVec.getLsbD_extractLsb', hi, decide_true, Bool.true_and]
  rw [getLsbD_packWord _ _ _ _ (by omega), if_neg (by omega), if_neg (by omega), if_neg (by omega)]
  congr 1; omega

theorem fieldCh_packWord (op : BitVec 5) (ch : BitVec 1) (n : Half) : fieldCh (packWord op ch n) = ch := by
  apply BitVec.eq_of_getLsbD_eq
  intro i hi
  simp only [fieldCh, BitVec.getLsbD_extractLsb', hi, decide_true, Bool.true_and]
  rw [getLsbD_packWord _ _ _ _ (by omega), if_neg (by omega), if_neg (by omega), if_pos (by omega)]
  congr 1; omega

theorem fieldRsv_packWord (op : BitVec 5) (ch : BitVec 1) (n : Half) : fieldRsv (packWord op ch n) = 0 := by
  apply BitVec.eq_of_getLsbD_eq
  intro i hi
  simp only [fieldRsv, BitVec.getLsbD_extractLsb', hi, decide_true, Bool.true_and]
  rw [getLsbD_packWord _ _ _ _ (by omega), if_neg (by omega), if_pos (by omega)]
  simp

theorem fieldN_packWord (op : BitVec 5) (ch : BitVec 1) (n : Half) : fieldN (packWord op ch n) = n := by
  apply BitVec.eq_of_getLsbD_eq
  intro i hi
  simp only [fieldN, BitVec.getLsbD_extractLsb', hi, decide_true, Bool.true_and]
  rw [getLsbD_packWord _ _ _ _ (by omega), if_pos (by omega)]
  simp

@[simp] theorem chanOfBit_chanBit (ch : Chan) : chanOfBit (chanBit ch) = ch := by cases ch <;> rfl

end Sys2Proof
end

