-- ==== Sys2Proof/Laws/Memory.lean ====
section
/-! SUPPORT. The byte arrays: a read after a write, the canonical form, the bounds. -/

namespace Sys2Proof.Machine

@[simp] theorem Memory.read_nil (a : Nat) : Memory.read [] a = none := rfl

/-- A read after a write gives the value written there, and elsewhere what it gave before. -/
theorem Memory.read_write (m : Memory) (a b : Nat) (v : Byte) :
    Memory.read (Memory.write m a v) b = if a = b then some v else Memory.read m b := by
  induction m with
  | nil => simp [Memory.write, Memory.read]
  | cons c m ih =>
    obtain ⟨i, x⟩ := c
    simp only [Memory.write]
    split
    · simp [Memory.read]
    · split
      · next h => subst h; simp only [Memory.read]; split <;> rfl
      · next h =>
        simp only [Memory.read, ih]
        by_cases hb : i = b
        · subst hb; simp [h]
        · simp [hb]

theorem Memory.mem_write {m : Memory} {a : Nat} {v : Byte} {c : Host.Cell}
    (h : c ∈ Memory.write m a v) : c = (a, v) ∨ c ∈ m := by
  induction m with
  | nil => simpa [Memory.write] using h
  | cons d m ih =>
    obtain ⟨i, x⟩ := d
    simp only [Memory.write] at h
    split at h
    · simpa using h
    · split at h
      · simp at h; rcases h with h | h <;> simp [h]
      · simp at h
        rcases h with h | h
        · simp [h]
        · rcases ih h with h | h <;> simp [h]

/-- A write keeps the indices rising. -/
theorem Memory.write_wf {m : Memory} (h : Memory.wf m) (a : Nat) (v : Byte) :
    Memory.wf (Memory.write m a v) := by
  induction m with
  | nil => simp [Memory.write, Memory.wf]
  | cons c m ih =>
    obtain ⟨i, x⟩ := c
    simp only [Memory.wf, List.map_cons, List.pairwise_cons] at h ih ⊢
    simp only [Memory.write]
    split
    · next hlt =>
      simp only [List.map_cons, List.pairwise_cons, List.mem_cons]
      exact ⟨fun j hj => by rcases hj with rfl | hj; exact hlt; exact hlt.trans (h.1 j hj), h.1, h.2⟩
    · split
      · next heq => subst heq; simpa using h
      · next hlt hne =>
        simp only [List.map_cons, List.pairwise_cons]
        refine ⟨fun j hj => ?_, ih h.2⟩
        obtain ⟨c, hc, rfl⟩ := List.mem_map.1 hj
        rcases Memory.mem_write hc with rfl | hc
        · simp; omega
        · exact h.1 _ (List.mem_map_of_mem hc)

theorem Memory.write_bound {m : Memory} {n a : Nat} (h : ∀ c ∈ m, c.1 < n) (ha : a < n) (v : Byte) :
    ∀ c ∈ Memory.write m a v, c.1 < n := fun c hc => by
  rcases Memory.mem_write hc with rfl | hc
  · exact ha
  · exact h c hc

theorem Memory.storeRing_wf (n : Nat) {m : Memory} (h : Memory.wf m) (p : Nat) (bs : List Byte) :
    Memory.wf (Memory.storeRing n m p bs) := by
  induction bs generalizing m p with
  | nil => exact h
  | cons b bs ih => exact ih (Memory.write_wf h _ _) _

theorem Memory.storeRun_wf {m : Memory} (h : Memory.wf m) (p : Nat) (bs : List Byte) :
    Memory.wf (Memory.storeRun m p bs) := by
  induction bs generalizing m p with
  | nil => exact h
  | cons b bs ih => exact ih (Memory.write_wf h _ _) _

theorem Memory.storeRing_bound {n : Nat} (hn : 0 < n) {m : Memory} (h : ∀ c ∈ m, c.1 < n) (p : Nat)
    (bs : List Byte) : ∀ c ∈ Memory.storeRing n m p bs, c.1 < n := by
  induction bs generalizing m p with
  | nil => exact h
  | cons b bs ih => exact ih (Memory.write_bound h (Nat.mod_lt _ hn) _) _

theorem Memory.storeRun_bound {n : Nat} {m : Memory} (h : ∀ c ∈ m, c.1 < n) (p : Nat) (bs : List Byte)
    (hp : p + bs.length ≤ n) : ∀ c ∈ Memory.storeRun m p bs, c.1 < n := by
  induction bs generalizing m p with
  | nil => exact h
  | cons b bs ih =>
    simp at hp
    exact ih (Memory.write_bound h (by omega) _) _ (by omega)

/-- A ring store leaves every position it does not store to. -/
theorem Memory.read_storeRing_of_ne {n : Nat} {m : Memory} {p a : Nat} {bs : List Byte}
    (h : ∀ i, i < bs.length → a ≠ (p + i) % n) :
    Memory.read (Memory.storeRing n m p bs) a = Memory.read m a := by
  induction bs generalizing m p with
  | nil => rfl
  | cons b bs ih =>
    simp only [Memory.storeRing]
    rw [ih, Memory.read_write, if_neg]
    · have := h 0 (by simp); simp at this; exact fun e => this e.symm
    · intro i hi
      have := h (i + 1) (by simpa using hi)
      rwa [show p + (i + 1) = p + 1 + i by omega] at this

/-- A ring store of at most `n` bytes leaves each byte at its position. -/
theorem Memory.read_storeRing {n : Nat} {m : Memory} {p i : Nat} {bs : List Byte} {x : Byte}
    (hl : bs.length ≤ n) (hi : bs[i]? = some x) :
    Memory.read (Memory.storeRing n m p bs) ((p + i) % n) = some x := by
  induction bs generalizing m p i with
  | nil => simp at hi
  | cons b bs ih =>
    simp only [List.length_cons] at hl
    simp only [Memory.storeRing]
    cases i with
    | zero =>
      simp at hi; subst hi
      rw [Memory.read_storeRing_of_ne, Memory.read_write, if_pos (by simp)]
      intro j hj e
      have h1 : p ≡ p + 1 + j [MOD n] := by simpa [Nat.ModEq] using e
      have h2 : n ∣ 1 + j := by
        have h3 := (Nat.modEq_iff_dvd' (by omega : p ≤ p + 1 + j)).1 h1
        rwa [show p + 1 + j - p = 1 + j by omega] at h3
      have := Nat.le_of_dvd (by omega) h2
      omega
    | succ i =>
      rw [show p + (i + 1) = p + 1 + i by omega]
      exact ih (by omega) (by simpa using hi)

/-- What a run store leaves at each index. -/
theorem Memory.read_storeRun (m : Memory) (p a : Nat) (bs : List Byte) :
    Memory.read (Memory.storeRun m p bs) a =
      if p ≤ a ∧ a < p + bs.length then bs[a - p]? else Memory.read m a := by
  induction bs generalizing m p with
  | nil => simp [Memory.storeRun]
  | cons b bs ih =>
    simp only [Memory.storeRun, ih, Memory.read_write, List.length_cons]
    by_cases h : p = a
    · subst h; simp
    · by_cases h1 : p + 1 ≤ a ∧ a < p + 1 + bs.length
      · rw [if_pos h1, if_pos (by omega), show a - p = (a - (p + 1)) + 1 by omega]; simp
      · rw [if_neg h1, if_neg h, if_neg (by omega)]

/-- The arrays of the reset state, and of the state SYS.INIT leaves, are canonical. -/
theorem CoreState.reset_memory_wf (cfg : Config) :
    Memory.wf (CoreState.reset cfg).chIn.buf ∧ Memory.wf (CoreState.reset cfg).chOut.buf ∧
      Memory.wf (CoreState.reset cfg).pktBuf := ⟨.nil, .nil, .nil⟩

theorem State.reset_memory_wf :
    Memory.wf State.reset.core.chIn.buf ∧ Memory.wf State.reset.core.chOut.buf ∧
      Memory.wf State.reset.core.pktBuf := CoreState.reset_memory_wf _

theorem initCore_memory_wf (cfg : Config) :
    Memory.wf (initCore cfg).chIn.buf ∧ Memory.wf (initCore cfg).chOut.buf ∧
      Memory.wf (initCore cfg).pktBuf := ⟨.nil, .nil, .nil⟩

end Sys2Proof.Machine
end

