-- ==== Sys2Proof/Laws/State.lean ====
section
/-! SUPPORT. One lemma per field per update of the state records, so that no later proof unfolds an update. -/

namespace Sys2Proof.Machine

@[simp] theorem CoreState.setChan_seq (k : CoreState) (ch : Chan) (c : Channel) : (k.setChan ch c).seq = k.seq :=
  by cases ch <;> rfl

@[simp] theorem CoreState.setChan_txReady (k : CoreState) (ch : Chan) (c : Channel) : (k.setChan ch c).txReady = k.txReady :=
  by cases ch <;> rfl

@[simp] theorem CoreState.setChan_rsState (k : CoreState) (ch : Chan) (c : Channel) : (k.setChan ch c).rsState = k.rsState :=
  by cases ch <;> rfl

@[simp] theorem CoreState.setChan_expected (k : CoreState) (ch : Chan) (c : Channel) : (k.setChan ch c).expected = k.expected :=
  by cases ch <;> rfl

@[simp] theorem CoreState.setChan_received (k : CoreState) (ch : Chan) (c : Channel) : (k.setChan ch c).received = k.received :=
  by cases ch <;> rfl

@[simp] theorem CoreState.setChan_pktBuf (k : CoreState) (ch : Chan) (c : Channel) : (k.setChan ch c).pktBuf = k.pktBuf :=
  by cases ch <;> rfl

@[simp] theorem CoreState.setChan_cnt (k : CoreState) (ch : Chan) (c : Channel) : (k.setChan ch c).cnt = k.cnt :=
  by cases ch <;> rfl

@[simp] theorem CoreState.setChan_filterKey (k : CoreState) (ch : Chan) (c : Channel) : (k.setChan ch c).filterKey = k.filterKey :=
  by cases ch <;> rfl

@[simp] theorem CoreState.setChan_ownAddr (k : CoreState) (ch : Chan) (c : Channel) : (k.setChan ch c).ownAddr = k.ownAddr :=
  by cases ch <;> rfl

@[simp] theorem CoreState.setChan_chan_self (k : CoreState) (ch : Chan) (c : Channel) : (k.setChan ch c).chan ch = c :=
  by cases ch <;> rfl

theorem CoreState.setChan_chan_of_ne {a ch : Chan} (h : a ≠ ch) (k : CoreState) (c : Channel) :
    (k.setChan ch c).chan a = k.chan a := by
  cases ch <;> cases a <;> first | rfl | exact absurd rfl h

@[simp] theorem CoreState.bump_chIn (cfg : Config) (k : CoreState) (c : Counter) (v : Nat) : (k.bump cfg c v).chIn = k.chIn :=
  rfl

@[simp] theorem CoreState.bump_chOut (cfg : Config) (k : CoreState) (c : Counter) (v : Nat) : (k.bump cfg c v).chOut = k.chOut :=
  rfl

@[simp] theorem CoreState.bump_seq (cfg : Config) (k : CoreState) (c : Counter) (v : Nat) : (k.bump cfg c v).seq = k.seq :=
  rfl

@[simp] theorem CoreState.bump_txReady (cfg : Config) (k : CoreState) (c : Counter) (v : Nat) : (k.bump cfg c v).txReady = k.txReady :=
  rfl

@[simp] theorem CoreState.bump_rsState (cfg : Config) (k : CoreState) (c : Counter) (v : Nat) : (k.bump cfg c v).rsState = k.rsState :=
  rfl

@[simp] theorem CoreState.bump_expected (cfg : Config) (k : CoreState) (c : Counter) (v : Nat) : (k.bump cfg c v).expected = k.expected :=
  rfl

@[simp] theorem CoreState.bump_received (cfg : Config) (k : CoreState) (c : Counter) (v : Nat) : (k.bump cfg c v).received = k.received :=
  rfl

@[simp] theorem CoreState.bump_pktBuf (cfg : Config) (k : CoreState) (c : Counter) (v : Nat) : (k.bump cfg c v).pktBuf = k.pktBuf :=
  rfl

@[simp] theorem CoreState.bump_filterKey (cfg : Config) (k : CoreState) (c : Counter) (v : Nat) : (k.bump cfg c v).filterKey = k.filterKey :=
  rfl

@[simp] theorem CoreState.bump_ownAddr (cfg : Config) (k : CoreState) (c : Counter) (v : Nat) : (k.bump cfg c v).ownAddr = k.ownAddr :=
  rfl

@[simp] theorem CoreState.bump_chan (cfg : Config) (k : CoreState) (c : Counter) (v : Nat) (ch : Chan) : (k.bump cfg c v).chan ch = k.chan ch :=
  by cases ch <;> rfl

@[simp] theorem CoreState.bump_cnt (cfg : Config) (k : CoreState) (c : Counter) (v : Nat) : (k.bump cfg c v).cnt = k.cnt.set c ((k.cnt.get c + v) % 2 ^ cfg.wCnt) :=
  rfl

@[simp] theorem Counters.get_set_self (k : Counters) (c : Counter) (v : Nat) : (k.set c v).get c = v :=
  by cases c <;> rfl

theorem Counters.get_set_of_ne {a c : Counter} (h : a ≠ c) (k : Counters) (v : Nat) :
    (k.set c v).get a = k.get a := by
  cases c <;> cases a <;> first | rfl | exact absurd rfl h

@[simp] theorem CoreState.advanceSeq_chIn (k : CoreState) : (k.advanceSeq).chIn = k.chIn := rfl

@[simp] theorem CoreState.advanceSeq_chOut (k : CoreState) : (k.advanceSeq).chOut = k.chOut := rfl

@[simp] theorem CoreState.advanceSeq_seq (k : CoreState) : (k.advanceSeq).seq = k.seq + 1 := rfl

@[simp] theorem CoreState.advanceSeq_txReady (k : CoreState) : (k.advanceSeq).txReady = k.txReady :=
  rfl

@[simp] theorem CoreState.advanceSeq_rsState (k : CoreState) : (k.advanceSeq).rsState = k.rsState :=
  rfl

@[simp] theorem CoreState.advanceSeq_expected (k : CoreState) : (k.advanceSeq).expected = k.expected :=
  rfl

@[simp] theorem CoreState.advanceSeq_received (k : CoreState) : (k.advanceSeq).received = k.received :=
  rfl

@[simp] theorem CoreState.advanceSeq_pktBuf (k : CoreState) : (k.advanceSeq).pktBuf = k.pktBuf :=
  rfl

@[simp] theorem CoreState.advanceSeq_cnt (k : CoreState) : (k.advanceSeq).cnt = k.cnt := rfl

@[simp] theorem CoreState.advanceSeq_filterKey (k : CoreState) : (k.advanceSeq).filterKey = k.filterKey :=
  rfl

@[simp] theorem CoreState.advanceSeq_ownAddr (k : CoreState) : (k.advanceSeq).ownAddr = k.ownAddr :=
  rfl

@[simp] theorem CoreState.advanceSeq_chan (k : CoreState) (ch : Chan) : (k.advanceSeq).chan ch = k.chan ch :=
  by cases ch <;> rfl

@[simp] theorem CoreState.startPacket_chIn (k : CoreState) (l : Half) : (k.startPacket l).chIn = k.chIn :=
  rfl

@[simp] theorem CoreState.startPacket_chOut (k : CoreState) (l : Half) : (k.startPacket l).chOut = k.chOut :=
  rfl

@[simp] theorem CoreState.startPacket_seq (k : CoreState) (l : Half) : (k.startPacket l).seq = k.seq :=
  rfl

@[simp] theorem CoreState.startPacket_txReady (k : CoreState) (l : Half) : (k.startPacket l).txReady = k.txReady :=
  rfl

@[simp] theorem CoreState.startPacket_rsState (k : CoreState) (l : Half) : (k.startPacket l).rsState = .accumulate :=
  rfl

@[simp] theorem CoreState.startPacket_expected (k : CoreState) (l : Half) : (k.startPacket l).expected = l :=
  rfl

@[simp] theorem CoreState.startPacket_received (k : CoreState) (l : Half) : (k.startPacket l).received = 0 :=
  rfl

@[simp] theorem CoreState.startPacket_pktBuf (k : CoreState) (l : Half) : (k.startPacket l).pktBuf = k.pktBuf :=
  rfl

@[simp] theorem CoreState.startPacket_cnt (k : CoreState) (l : Half) : (k.startPacket l).cnt = k.cnt :=
  rfl

@[simp] theorem CoreState.startPacket_filterKey (k : CoreState) (l : Half) : (k.startPacket l).filterKey = k.filterKey :=
  rfl

@[simp] theorem CoreState.startPacket_ownAddr (k : CoreState) (l : Half) : (k.startPacket l).ownAddr = k.ownAddr :=
  rfl

@[simp] theorem CoreState.startPacket_chan (k : CoreState) (l : Half) (ch : Chan) : (k.startPacket l).chan ch = k.chan ch :=
  by cases ch <;> rfl

@[simp] theorem CoreState.awaitHeader_chIn (k : CoreState) : (k.awaitHeader).chIn = k.chIn := rfl

@[simp] theorem CoreState.awaitHeader_chOut (k : CoreState) : (k.awaitHeader).chOut = k.chOut :=
  rfl

@[simp] theorem CoreState.awaitHeader_seq (k : CoreState) : (k.awaitHeader).seq = k.seq := rfl

@[simp] theorem CoreState.awaitHeader_txReady (k : CoreState) : (k.awaitHeader).txReady = k.txReady :=
  rfl

@[simp] theorem CoreState.awaitHeader_rsState (k : CoreState) : (k.awaitHeader).rsState = .waitHeader :=
  rfl

@[simp] theorem CoreState.awaitHeader_expected (k : CoreState) : (k.awaitHeader).expected = k.expected :=
  rfl

@[simp] theorem CoreState.awaitHeader_received (k : CoreState) : (k.awaitHeader).received = k.received :=
  rfl

@[simp] theorem CoreState.awaitHeader_pktBuf (k : CoreState) : (k.awaitHeader).pktBuf = k.pktBuf :=
  rfl

@[simp] theorem CoreState.awaitHeader_cnt (k : CoreState) : (k.awaitHeader).cnt = k.cnt := rfl

@[simp] theorem CoreState.awaitHeader_filterKey (k : CoreState) : (k.awaitHeader).filterKey = k.filterKey :=
  rfl

@[simp] theorem CoreState.awaitHeader_ownAddr (k : CoreState) : (k.awaitHeader).ownAddr = k.ownAddr :=
  rfl

@[simp] theorem CoreState.awaitHeader_chan (k : CoreState) (ch : Chan) : (k.awaitHeader).chan ch = k.chan ch :=
  by cases ch <;> rfl

@[simp] theorem State.setCore_cfg (s : State) (k : CoreState) : (s.setCore k).cfg = s.cfg := rfl

@[simp] theorem State.setCore_initialised (s : State) (k : CoreState) : (s.setCore k).initialised = s.initialised :=
  rfl

@[simp] theorem State.setCore_core (s : State) (k : CoreState) : (s.setCore k).core = k := rfl

@[simp] theorem State.setCore_inProgress (s : State) (k : CoreState) : (s.setCore k).inProgress = s.inProgress :=
  rfl

@[simp] theorem State.setCore_runUse (s : State) (k : CoreState) : (s.setCore k).runUse = s.runUse :=
  rfl

@[simp] theorem State.setCore_portE (s : State) (k : CoreState) : (s.setCore k).portE = s.portE :=
  rfl

@[simp] theorem State.setCore_portT (s : State) (k : CoreState) : (s.setCore k).portT = s.portT :=
  rfl

@[simp] theorem State.setCore_turns (s : State) (k : CoreState) : (s.setCore k).turns = s.turns :=
  rfl

@[simp] theorem State.setCore_cur (s : State) (k : CoreState) : (s.setCore k).cur = s.cur := rfl

@[simp] theorem State.setCore_draws (s : State) (k : CoreState) : (s.setCore k).draws = s.draws :=
  rfl

@[simp] theorem State.setCore_resE (s : State) (k : CoreState) : (s.setCore k).resE = s.resE := rfl

@[simp] theorem State.setCore_resT (s : State) (k : CoreState) : (s.setCore k).resT = s.resT := rfl

@[simp] theorem State.setCore_tx (s : State) (k : CoreState) : (s.setCore k).tx = s.tx := rfl

@[simp] theorem State.noteUse_cfg (s : State) (a : Access) : (s.noteUse a).cfg = s.cfg := rfl

@[simp] theorem State.noteUse_initialised (s : State) (a : Access) : (s.noteUse a).initialised = s.initialised :=
  rfl

@[simp] theorem State.noteUse_core (s : State) (a : Access) : (s.noteUse a).core = s.core := rfl

@[simp] theorem State.noteUse_inProgress (s : State) (a : Access) : (s.noteUse a).inProgress = s.inProgress :=
  rfl

@[simp] theorem State.noteUse_runUse (s : State) (a : Access) : (s.noteUse a).runUse = s.runUse.note s.cur.port a :=
  rfl

@[simp] theorem State.noteUse_portE (s : State) (a : Access) : (s.noteUse a).portE = s.portE := rfl

@[simp] theorem State.noteUse_portT (s : State) (a : Access) : (s.noteUse a).portT = s.portT := rfl

@[simp] theorem State.noteUse_turns (s : State) (a : Access) : (s.noteUse a).turns = s.turns := rfl

@[simp] theorem State.noteUse_cur (s : State) (a : Access) : (s.noteUse a).cur = s.cur := rfl

@[simp] theorem State.noteUse_draws (s : State) (a : Access) : (s.noteUse a).draws = s.draws := rfl

@[simp] theorem State.noteUse_resE (s : State) (a : Access) : (s.noteUse a).resE = s.resE := rfl

@[simp] theorem State.noteUse_resT (s : State) (a : Access) : (s.noteUse a).resT = s.resT := rfl

@[simp] theorem State.noteUse_tx (s : State) (a : Access) : (s.noteUse a).tx = s.tx := rfl

@[simp] theorem State.pause_cfg (s : State) (m : Micro) : (s.pause m).cfg = s.cfg := rfl

@[simp] theorem State.pause_initialised (s : State) (m : Micro) : (s.pause m).initialised = s.initialised :=
  rfl

@[simp] theorem State.pause_core (s : State) (m : Micro) : (s.pause m).core = s.core := rfl

@[simp] theorem State.pause_inProgress (s : State) (m : Micro) : (s.pause m).inProgress = some ⟨s.cur, m⟩ :=
  rfl

@[simp] theorem State.pause_runUse (s : State) (m : Micro) : (s.pause m).runUse = s.runUse := rfl

@[simp] theorem State.pause_portE (s : State) (m : Micro) : (s.pause m).portE = s.portE := rfl

@[simp] theorem State.pause_portT (s : State) (m : Micro) : (s.pause m).portT = s.portT := rfl

@[simp] theorem State.pause_turns (s : State) (m : Micro) : (s.pause m).turns = s.turns := rfl

@[simp] theorem State.pause_cur (s : State) (m : Micro) : (s.pause m).cur = s.cur := rfl

@[simp] theorem State.pause_draws (s : State) (m : Micro) : (s.pause m).draws = s.draws := rfl

@[simp] theorem State.pause_resE (s : State) (m : Micro) : (s.pause m).resE = s.resE := rfl

@[simp] theorem State.pause_resT (s : State) (m : Micro) : (s.pause m).resT = s.resT := rfl

@[simp] theorem State.pause_tx (s : State) (m : Micro) : (s.pause m).tx = s.tx := rfl

@[simp] theorem State.quiet_cfg (s : State) : (s.quiet).cfg = s.cfg := rfl

@[simp] theorem State.quiet_initialised (s : State) : (s.quiet).initialised = s.initialised := rfl

@[simp] theorem State.quiet_core (s : State) : (s.quiet).core = s.core := rfl

@[simp] theorem State.quiet_inProgress (s : State) : (s.quiet).inProgress = s.inProgress := rfl

@[simp] theorem State.quiet_runUse (s : State) : (s.quiet).runUse = s.runUse := rfl

@[simp] theorem State.quiet_portE (s : State) : (s.quiet).portE = s.portE := rfl

@[simp] theorem State.quiet_portT (s : State) : (s.quiet).portT = s.portT := rfl

@[simp] theorem State.quiet_turns (s : State) : (s.quiet).turns = s.turns := rfl

@[simp] theorem State.quiet_cur (s : State) : (s.quiet).cur = s.cur := rfl

@[simp] theorem State.quiet_draws (s : State) : (s.quiet).draws = s.draws := rfl

@[simp] theorem State.quiet_resE (s : State) : (s.quiet).resE = s.resE := rfl

@[simp] theorem State.quiet_resT (s : State) : (s.quiet).resT = s.resT := rfl

@[simp] theorem State.quiet_tx (s : State) : (s.quiet).tx = none := rfl

@[simp] theorem State.present_cfg (s : State) (p : Port) (c : Command) : (s.present p c).cfg = s.cfg :=
  rfl

@[simp] theorem State.present_initialised (s : State) (p : Port) (c : Command) : (s.present p c).initialised = s.initialised :=
  rfl

@[simp] theorem State.present_core (s : State) (p : Port) (c : Command) : (s.present p c).core = s.core :=
  rfl

@[simp] theorem State.present_inProgress (s : State) (p : Port) (c : Command) : (s.present p c).inProgress = s.inProgress :=
  rfl

@[simp] theorem State.present_runUse (s : State) (p : Port) (c : Command) : (s.present p c).runUse = s.runUse :=
  rfl

@[simp] theorem State.present_portE (s : State) (p : Port) (c : Command) : (s.present p c).portE = s.portE :=
  rfl

@[simp] theorem State.present_portT (s : State) (p : Port) (c : Command) : (s.present p c).portT = s.portT :=
  rfl

@[simp] theorem State.present_turns (s : State) (p : Port) (c : Command) : (s.present p c).turns = s.turns :=
  rfl

@[simp] theorem State.present_cur (s : State) (p : Port) (c : Command) : (s.present p c).cur = ⟨p, c.modInd, c.legacyLen, c.enq, c.conf, s.draws⟩ :=
  rfl

@[simp] theorem State.present_draws (s : State) (p : Port) (c : Command) : (s.present p c).draws = s.draws + 1 :=
  rfl

@[simp] theorem State.present_resE (s : State) (p : Port) (c : Command) : (s.present p c).resE = s.resE :=
  rfl

@[simp] theorem State.present_resT (s : State) (p : Port) (c : Command) : (s.present p c).resT = s.resT :=
  rfl

@[simp] theorem State.present_tx (s : State) (p : Port) (c : Command) : (s.present p c).tx = s.tx :=
  rfl

@[simp] theorem State.setPortIn_cfg (s : State) (p : Port) (q : PortIn) : (s.setPortIn p q).cfg = s.cfg :=
  by cases p <;> rfl

@[simp] theorem State.setPortIn_initialised (s : State) (p : Port) (q : PortIn) : (s.setPortIn p q).initialised = s.initialised :=
  by cases p <;> rfl

@[simp] theorem State.setPortIn_core (s : State) (p : Port) (q : PortIn) : (s.setPortIn p q).core = s.core :=
  by cases p <;> rfl

@[simp] theorem State.setPortIn_inProgress (s : State) (p : Port) (q : PortIn) : (s.setPortIn p q).inProgress = s.inProgress :=
  by cases p <;> rfl

@[simp] theorem State.setPortIn_runUse (s : State) (p : Port) (q : PortIn) : (s.setPortIn p q).runUse = s.runUse :=
  by cases p <;> rfl

@[simp] theorem State.setPortIn_turns (s : State) (p : Port) (q : PortIn) : (s.setPortIn p q).turns = s.turns :=
  by cases p <;> rfl

@[simp] theorem State.setPortIn_cur (s : State) (p : Port) (q : PortIn) : (s.setPortIn p q).cur = s.cur :=
  by cases p <;> rfl

@[simp] theorem State.setPortIn_draws (s : State) (p : Port) (q : PortIn) : (s.setPortIn p q).draws = s.draws :=
  by cases p <;> rfl

@[simp] theorem State.setPortIn_resE (s : State) (p : Port) (q : PortIn) : (s.setPortIn p q).resE = s.resE :=
  by cases p <;> rfl

@[simp] theorem State.setPortIn_resT (s : State) (p : Port) (q : PortIn) : (s.setPortIn p q).resT = s.resT :=
  by cases p <;> rfl

@[simp] theorem State.setPortIn_tx (s : State) (p : Port) (q : PortIn) : (s.setPortIn p q).tx = s.tx :=
  by cases p <;> rfl

@[simp] theorem State.configure_cfg (s : State) (c : Config) : (s.configure c).cfg = c := rfl

@[simp] theorem State.configure_initialised (s : State) (c : Config) : (s.configure c).initialised = true :=
  rfl

@[simp] theorem State.configure_core (s : State) (c : Config) : (s.configure c).core = initCore c :=
  rfl

@[simp] theorem State.configure_inProgress (s : State) (c : Config) : (s.configure c).inProgress = s.inProgress :=
  rfl

@[simp] theorem State.configure_runUse (s : State) (c : Config) : (s.configure c).runUse = freshUse :=
  rfl

@[simp] theorem State.configure_portE (s : State) (c : Config) : (s.configure c).portE = s.portE :=
  rfl

@[simp] theorem State.configure_portT (s : State) (c : Config) : (s.configure c).portT = s.portT :=
  rfl

@[simp] theorem State.configure_turns (s : State) (c : Config) : (s.configure c).turns = s.turns :=
  rfl

@[simp] theorem State.configure_cur (s : State) (c : Config) : (s.configure c).cur = s.cur := rfl

@[simp] theorem State.configure_draws (s : State) (c : Config) : (s.configure c).draws = s.draws :=
  rfl

@[simp] theorem State.configure_resE (s : State) (c : Config) : (s.configure c).resE = s.resE :=
  rfl

@[simp] theorem State.configure_resT (s : State) (c : Config) : (s.configure c).resT = s.resT :=
  rfl

@[simp] theorem State.configure_tx (s : State) (c : Config) : (s.configure c).tx = s.tx := rfl

@[simp] theorem State.finish_cfg (s : State) (r : PortResult) : (s.finish r).cfg = s.cfg := by unfold State.finish; split <;> rfl

@[simp] theorem State.finish_initialised (s : State) (r : PortResult) : (s.finish r).initialised = s.initialised :=
  by unfold State.finish; split <;> rfl

@[simp] theorem State.finish_core (s : State) (r : PortResult) : (s.finish r).core = s.core := by unfold State.finish; split <;> rfl

@[simp] theorem State.finish_runUse (s : State) (r : PortResult) : (s.finish r).runUse = s.runUse :=
  by unfold State.finish; split <;> rfl

@[simp] theorem State.finish_portE (s : State) (r : PortResult) : (s.finish r).portE = s.portE :=
  by unfold State.finish; split <;> rfl

@[simp] theorem State.finish_portT (s : State) (r : PortResult) : (s.finish r).portT = s.portT :=
  by unfold State.finish; split <;> rfl

@[simp] theorem State.finish_turns (s : State) (r : PortResult) : (s.finish r).turns = s.turns :=
  by unfold State.finish; split <;> rfl

@[simp] theorem State.finish_cur (s : State) (r : PortResult) : (s.finish r).cur = s.cur := by unfold State.finish; split <;> rfl

@[simp] theorem State.finish_draws (s : State) (r : PortResult) : (s.finish r).draws = s.draws :=
  by unfold State.finish; split <;> rfl

@[simp] theorem State.finish_tx (s : State) (r : PortResult) : (s.finish r).tx = s.tx := by unfold State.finish; split <;> rfl

@[simp] theorem State.setPortIn_portIn_self (s : State) (p : Port) (q : PortIn) : (s.setPortIn p q).portIn p = q :=
  by cases p <;> rfl

theorem State.setPortIn_portIn_of_ne {a p : Port} (h : a ≠ p) (s : State) (q : PortIn) :
    (s.setPortIn p q).portIn a = s.portIn a := by
  cases p <;> cases a <;> first | rfl | exact absurd rfl h

theorem State.finish_inProgress (s : State) (r : PortResult) :
    (s.finish r).inProgress = if s.cur.port = .t then none else s.inProgress := by
  unfold State.finish; split <;> simp_all

theorem State.finish_result_self (s : State) (r : PortResult) :
    (s.finish r).result s.cur.port = some r := by
  unfold State.finish; split <;> simp_all [State.result]

theorem State.finish_result_of_ne {p : Port} (s : State) (r : PortResult) (h : p ≠ s.cur.port) :
    (s.finish r).result p = s.result p := by
  unfold State.finish; split <;> cases p <;> simp_all [State.result]

@[simp] theorem State.setCore_portIn (s : State) (k : CoreState) (p : Port) : (s.setCore k).portIn p = s.portIn p :=
  by cases p <;> rfl

@[simp] theorem State.noteUse_portIn (s : State) (a : Access) (p : Port) : (s.noteUse a).portIn p = s.portIn p :=
  by cases p <;> rfl

@[simp] theorem State.pause_portIn (s : State) (m : Micro) (p : Port) : (s.pause m).portIn p = s.portIn p :=
  by cases p <;> rfl

@[simp] theorem State.quiet_portIn (s : State) (p : Port) : (s.quiet).portIn p = s.portIn p := by cases p <;> rfl

@[simp] theorem State.configure_portIn (s : State) (c : Config) (p : Port) : (s.configure c).portIn p = s.portIn p :=
  by cases p <;> rfl

@[simp] theorem State.present_portIn (s : State) (q : Port) (c : Command) (p : Port) : (s.present q c).portIn p = s.portIn p :=
  by cases p <;> rfl

@[simp] theorem State.finish_portIn (s : State) (r : PortResult) (p : Port) : (s.finish r).portIn p = s.portIn p :=
  by unfold State.finish; split <;> cases p <;> rfl

@[simp] theorem State.present_confIn (s : State) (p : Port) (c : Command) : (s.present p c).confIn = c.conf.getD s.cfg :=
  rfl

@[simp] theorem State.setPortIn_confIn (s : State) (p : Port) (q : PortIn) : (s.setPortIn p q).confIn = s.confIn :=
  by cases p <;> rfl

end Sys2Proof.Machine
end

