-- ==== Sys2Proof/Laws/Ops.lean ====
section
/-! SUPPORT. What each shared operation can do, said once. -/

namespace Sys2Proof.Machine

/-! ### The gate -/

/-- An operation passes the gate exactly when the configuration is good, SYS.INIT has run and the port table
admits it. -/
theorem gate_eq_none {s : State} {a : Access} :
    gate s a = none ↔ s.cfg.wf = true ∧ s.initialised = true ∧ portRefusal s.runUse s.cur.port a = none := by
  unfold gate
  cases s.cfg.wf <;> cases s.initialised <;> simp

theorem gateInit_eq_none {s : State} :
    gateInit s = none ↔ s.cfg.wf = true ∧ s.cur.port = .t := by
  unfold gateInit portRefusal
  cases s.cfg.wf <;> cases s.cur.port <;> simp

/-- What an issued operation may be: whatever `portRefusal` answers is one of these. -/
theorem portRefusal_some {u : RunUse} {p : Port} {a : Access} {r : Refusal}
    (h : portRefusal u p a = some r) : r = .wrongPort p ∨ ∃ ch, r = .ownershipConflict ch := by
  cases a with
  | produce ch | consume ch =>
    cases ch <;> simp only [portRefusal] at h <;> (repeat' split at h) <;>
      first | (cases h; done) | (cases h; exact .inl rfl) | (cases h; exact .inr ⟨_, rfl⟩)
  | _ =>
    simp only [portRefusal] at h
    (repeat' split at h) <;> first | (cases h; done) | (cases h; exact .inl rfl) | (cases h; exact .inr ⟨_, rfl⟩)

theorem portRefusal_tickPort {u : RunUse} {p : Port} : portRefusal u p .tickPort = none ↔ p = .t := by
  cases p <;> simp [portRefusal]

theorem portRefusal_eventPort {u : RunUse} {p : Port} : portRefusal u p .eventPort = none ↔ p = .e := by
  cases p <;> simp [portRefusal]

@[simp] theorem portRefusal_anyPort (u : RunUse) (p : Port) : portRefusal u p .anyPort = none := rfl

theorem portRefusal_capture {u : RunUse} {p : Port} :
    portRefusal u p .capture = none ↔ p = .e ∧ u.directOut = false := by
  cases p <;> simp [portRefusal]

theorem portRefusal_tick {u : RunUse} {p : Port} :
    portRefusal u p .tick = none ↔ p = .t ∧ u.directIn = false := by
  cases p <;> simp [portRefusal]

theorem portRefusal_produce_in {u : RunUse} {p : Port} :
    portRefusal u p (.produce .chIn) = none ↔ p = .e := by cases p <;> simp [portRefusal]

theorem portRefusal_produce_out {u : RunUse} {p : Port} :
    portRefusal u p (.produce .chOut) = none ↔ p = .e ∧ u.capture = false := by
  cases p <;> simp [portRefusal]

theorem portRefusal_consume_in {u : RunUse} {p : Port} :
    portRefusal u p (.consume .chIn) = none ↔ p = .t ∧ u.tick = false := by
  cases p <;> simp [portRefusal]

theorem portRefusal_consume_out {u : RunUse} {p : Port} :
    portRefusal u p (.consume .chOut) = none ↔ u.outConsumer = none ∨ u.outConsumer = some p := by
  simp only [portRefusal]
  split <;> simp_all

/-- `MayConsume` is the gate of CH.READ and CH.GETB. -/
theorem gate_consume {s : State} {ch : Chan} (h : MayConsume s ch) : gate s (.consume ch) = none := by
  cases ch with
  | chIn => obtain ⟨⟨h1, h2, h3⟩, h4⟩ := h; exact gate_eq_none.2 ⟨h1, h2, portRefusal_consume_in.2 ⟨h3, h4⟩⟩
  | chOut =>
    obtain ⟨p, ⟨h1, h2, h3⟩, h4⟩ := h
    exact gate_eq_none.2 ⟨h1, h2, portRefusal_consume_out.2 (h3 ▸ h4)⟩

/-- `MayProduce` is the gate of CH.WRITE and CH.PUTB. -/
theorem gate_produce {s : State} {ch : Chan} (h : MayProduce s ch) : gate s (.produce ch) = none := by
  cases ch with
  | chIn => obtain ⟨h1, h2, h3⟩ := h; exact gate_eq_none.2 ⟨h1, h2, portRefusal_produce_in.2 h3⟩
  | chOut =>
    obtain ⟨⟨h1, h2, h3⟩, h4⟩ := h
    exact gate_eq_none.2 ⟨h1, h2, portRefusal_produce_out.2 ⟨h3, h4⟩⟩

/-! ### Operands -/

/-- `takeDin` takes exactly the operand bytes and leaves the rest of the stream. -/
theorem takeDin_eq_some {n : Nat} {s : State} (h : Supplied s n) :
    takeDin n s = some (s.operandBytes n,
      s.setPortIn s.cur.port ⟨(s.portIn s.cur.port).cmds, (s.portIn s.cur.port).din.drop n⟩) := by
  simp only [Supplied] at h
  simp [takeDin, State.operandBytes, h]

theorem takeDin_eq_none {n : Nat} {s : State} (h : ¬ Supplied s n) : takeDin n s = none := by
  simp only [Supplied] at h
  simp [takeDin, h]

theorem operandBytes_length {s : State} {n : Nat} (h : Supplied s n) : (s.operandBytes n).length = n := by
  simpa [State.operandBytes, Supplied] using h

/-! ### Channels -/

/-- For legal indices the occupancy is the distance from `tail` to `head` around the ring. -/
theorem ringOcc_eq {n h t : Nat} (hh : h < n) (ht : t < n) :
    ringOcc n h t = if t ≤ h then h - t else h + n - t := by
  unfold ringOcc
  split
  · rw [show h + n - t = (h - t) + n by omega, Nat.add_mod_right, Nat.mod_eq_of_lt (by omega)]
  · rw [Nat.mod_eq_of_lt (by omega)]

theorem ringOcc_lt {n h t : Nat} (hn : 0 < n) : ringOcc n h t < n := Nat.mod_lt _ hn

/-- The position `i` places after `tail`, where `i` is the occupancy, is `head`. -/
theorem tail_add_occ {n h t : Nat} (hh : h < n) (ht : t < n) : (t + ringOcc n h t) % n = h := by
  rw [ringOcc_eq hh ht]
  split
  · rw [show t + (h - t) = h by omega, Nat.mod_eq_of_lt hh]
  · rw [show t + (h + n - t) = h + n by omega, Nat.add_mod_right, Nat.mod_eq_of_lt hh]

/-- Moving `tail` by `k` of the bytes held leaves `k` fewer. -/
theorem ringOcc_tail {n h t k : Nat} (hh : h < n) (ht : t < n) (hk : k ≤ ringOcc n h t) :
    ringOcc n h ((t + k) % n) = ringOcc n h t - k := by
  have hn : 0 < n := by omega
  rw [ringOcc_eq hh ht] at hk ⊢
  rw [ringOcc_eq hh (Nat.mod_lt _ hn)]
  by_cases hw : t + k < n
  · rw [Nat.mod_eq_of_lt hw]; split_ifs at hk ⊢ <;> omega
  · rw [Nat.mod_eq_sub_mod (by omega), Nat.mod_eq_of_lt (by split_ifs at hk <;> omega)]
    split_ifs at hk ⊢ <;> omega

/-- Moving `head` by `k` of the free places holds `k` more. -/
theorem ringOcc_head {n h t k : Nat} (hh : h < n) (ht : t < n) (hk : ringOcc n h t + k < n) :
    ringOcc n ((h + k) % n) t = ringOcc n h t + k := by
  have hn : 0 < n := by omega
  rw [ringOcc_eq hh ht] at hk ⊢
  rw [ringOcc_eq (Nat.mod_lt _ hn) ht]
  by_cases hw : h + k < n
  · rw [Nat.mod_eq_of_lt hw]; split_ifs at hk ⊢ <;> omega
  · rw [Nat.mod_eq_sub_mod (by omega), Nat.mod_eq_of_lt (by split_ifs at hk <;> omega)]
    split_ifs at hk ⊢ <;> omega

@[simp] theorem readCopy_length (cfg : Config) (ticket : Nat) (s : CoreState) (ch : Chan) (k : Nat) :
    (readCopy cfg ticket s ch k).length = k := by simp [readCopy]

@[simp] theorem held_length (cfg : Config) (k : CoreState) (ch : Chan) :
    (held cfg k ch).length = occ cfg k ch := by simp [held]

/-- A read copies the oldest bytes the channel holds: where they are written, no draw is made. -/
theorem readCopy_eq_held {cfg : Config} {s : CoreState} {ch : Chan} {k : Nat} (ticket : Nat)
    (hk : k ≤ occ cfg s ch) (hw : ∀ b ∈ held cfg s ch, b.isSome = true) :
    (readCopy cfg ticket s ch k).map some = (held cfg s ch).take k := by
  apply List.ext_getElem
  · simp [hk]
  · intro i h1 h2
    have hi : i < occ cfg s ch := by simp at h1; omega
    have hs := hw _ (List.getElem_mem (l := held cfg s ch) (n := i) (by simpa using hi))
    simp only [held, List.getElem_map, List.getElem_range] at hs
    simp only [readCopy, chanByte, held, List.getElem_map, List.getElem_range, List.getElem_take]
    obtain ⟨b, hb⟩ := Option.isSome_iff_exists.1 hs
    simp [hb]

/-- `CH.READ` u3 moves only the `tail` of its channel. -/
@[simp] theorem readPublish_chan_self (cfg : Config) (s : CoreState) (ch : Chan) (k : Nat) :
    (readPublish cfg s ch k).chan ch =
      { s.chan ch with tail := ((s.chan ch).tail + k) % cfg.cap ch } := by simp [readPublish]

theorem readPublish_chan_of_ne {a ch : Chan} (h : a ≠ ch) (cfg : Config) (s : CoreState) (k : Nat) :
    (readPublish cfg s ch k).chan a = s.chan a := CoreState.setChan_chan_of_ne h _ _

theorem readPublish_sameOffChannels (cfg : Config) (s : CoreState) (ch : Chan) (k : Nat) :
    SameOffChannels s (readPublish cfg s ch k) := by simp [SameOffChannels, readPublish]

@[simp] theorem readPublish_cnt (cfg : Config) (s : CoreState) (ch : Chan) (k : Nat) :
    (readPublish cfg s ch k).cnt = s.cnt := by simp [readPublish]

/-- What CH.WRITE can do: it accepts the first `min(len, free)` bytes and stores them; what is left over goes to
the overflow counter, and nothing else changes. -/
theorem writeChan_cases (cfg : Config) (s : CoreState) (ch : Chan) (data : List Byte) :
    (writeChan cfg s ch data).1 = min data.length (free cfg s ch) ∧
    ((data.length ≤ free cfg s ch ∧ (writeChan cfg s ch data).2 = writeStore cfg s ch data) ∨
      (free cfg s ch < data.length ∧
        (writeChan cfg s ch data).2 =
          (writeStore cfg s ch (data.take (free cfg s ch))).bump cfg (ovfOf ch)
            (data.length - free cfg s ch))) := by
  refine ⟨rfl, ?_⟩
  by_cases h : data.length ≤ free cfg s ch
  · left
    refine ⟨h, ?_⟩
    simp [writeChan, writeAccepts, Nat.min_eq_left h]
  · right
    refine ⟨by omega, ?_⟩
    have hm : min data.length (free cfg s ch) = free cfg s ch := Nat.min_eq_right (by omega)
    simp [writeChan, writeAccepts, hm, show free cfg s ch < data.length by omega]

@[simp] theorem writeStore_chan_self (cfg : Config) (s : CoreState) (ch : Chan) (bs : List Byte) :
    (writeStore cfg s ch bs).chan ch =
      { s.chan ch with
        buf := Memory.storeRing (cfg.cap ch) (s.chan ch).buf (s.chan ch).head bs
        head := ((s.chan ch).head + bs.length) % cfg.cap ch } := by simp [writeStore]

theorem writeStore_chan_of_ne {a ch : Chan} (h : a ≠ ch) (cfg : Config) (s : CoreState) (bs : List Byte) :
    (writeStore cfg s ch bs).chan a = s.chan a := CoreState.setChan_chan_of_ne h _ _

theorem writeStore_sameOffChannels (cfg : Config) (s : CoreState) (ch : Chan) (bs : List Byte) :
    SameOffChannels s (writeStore cfg s ch bs) := by simp [SameOffChannels, writeStore]

@[simp] theorem writeStore_cnt (cfg : Config) (s : CoreState) (ch : Chan) (bs : List Byte) :
    (writeStore cfg s ch bs).cnt = s.cnt := by simp [writeStore]

/-! ### The transmit contract -/

/-- What the atomic block of TX.SEND can do: find the flag clear and change nothing, or make one build call,
present one frame, and clear the flag where the answer or `P_CLR_ON_ENQ_FAIL` says. -/
theorem sendAttempt_cases (payload : List Byte) (s : State) :
    (s.core.txReady = false ∧ sendAttempt payload s = (.busy, s)) ∨
    (s.core.txReady = true ∧
      (sendAttempt payload s).1 = (if enqAnswer s then .ok else .failed) ∧
      (sendAttempt payload s).2.core =
        { s.core.advanceSeq with txReady := !(enqAnswer s || s.cfg.clrOnEnqFail) } ∧
      (sendAttempt payload s).2.tx = some
        ⟨txLenOf s.cur.ticket (24 + payload.length), buildHeader s.cfg s.core s.core.seq ++ payload⟩ ∧
      (sendAttempt payload s).2 =
        { s with core := (sendAttempt payload s).2.core, tx := (sendAttempt payload s).2.tx }) := by
  by_cases h : s.core.txReady = false
  · exact .inl ⟨h, by simp [sendAttempt, h]⟩
  · have h' : s.core.txReady = true := by simpa using h
    refine .inr ⟨h', ?_⟩
    cases he : enqAnswer s <;> cases hc : s.cfg.clrOnEnqFail <;> simp [sendAttempt, h', he, hc]

/-- What the publishing micro-step of a payload read can do. -/
theorem storePayload_cases (k : Nat) (data : List Byte) (s : State) :
    ((k = 0 ∨ s.core.received.toNat + k ≤ s.cfg.maxPayload) ∧
      storePayload k data s = .ok (s.setCore
        { readPublish s.cfg s.core .chIn k with
          pktBuf := Memory.storeRun s.core.pktBuf s.core.received.toNat (data.take k)
          received := s.core.received + BitVec.ofNat 16 k })) ∨
    (k ≠ 0 ∧ s.cfg.maxPayload < s.core.received.toNat + k ∧
      storePayload k data s =
        .error (.pktBufOutside (max s.core.received.toNat s.cfg.maxPayload))) := by
  by_cases h : k ≠ 0 ∧ s.cfg.maxPayload < s.core.received.toNat + k
  · exact .inr ⟨h.1, h.2, by simp [storePayload, h]⟩
  · refine .inl ⟨by omega, ?_⟩
    simp only [storePayload, if_neg h]
    rfl

/-! ### What is in progress on port T -/

@[simp] theorem pause_readPending (s : State) (m : Micro) (ch : Chan) :
    (s.pause m).readPending ch = if m.readsFrom ch then some ⟨s.cur, m⟩ else none := by
  simp [State.readPending, State.pause, Option.filter]

@[simp] theorem pause_tickPending (s : State) (m : Micro) :
    (s.pause m).tickPending = if m.ofTick then some ⟨s.cur, m⟩ else none := by
  simp [State.tickPending, State.pause, Option.filter]

theorem readPending_of_none {s : State} (h : s.inProgress = none) (ch : Chan) : s.readPending ch = none := by
  simp [State.readPending, h]

theorem tickPending_of_none {s : State} (h : s.inProgress = none) : s.tickPending = none := by
  simp [State.tickPending, h]

theorem readPending_eq_some {s : State} {ch : Chan} {q : InProgress} :
    s.readPending ch = some q ↔ s.inProgress = some q ∧ q.next.readsFrom ch = true := by
  simp [State.readPending, Option.filter_eq_some_iff]

theorem tickPending_eq_some {s : State} {q : InProgress} :
    s.tickPending = some q ↔ s.inProgress = some q ∧ q.next.ofTick = true := by
  simp [State.tickPending, Option.filter_eq_some_iff]

end Sys2Proof.Machine
end

