-- ==== Sys2Proof/Laws/PerInstr.lean ====
section
/-! SUPPORT. A family of facts about every operation as syntax: the reserved bits of its command word are zero
(30_encoding.md R80). -/

namespace Sys2Proof.Laws.RsvZero

/-- The reserved field of the operation's word is zero. -/
def Statement (i : Instr) : Prop := fieldRsv (encode i) = 0

theorem sysInit : Statement .sysInit := fieldRsv_packWord _ _ _
theorem chInit (ch : Chan) : Statement (.chInit ch) := fieldRsv_packWord _ _ _
theorem chAvail (ch : Chan) : Statement (.chAvail ch) := fieldRsv_packWord _ _ _
theorem chRead (ch : Chan) (max : Half) : Statement (.chRead ch max) := fieldRsv_packWord _ _ _
theorem chWrite (ch : Chan) (len : Half) : Statement (.chWrite ch len) := fieldRsv_packWord _ _ _
theorem chGetb (ch : Chan) : Statement (.chGetb ch) := fieldRsv_packWord _ _ _
theorem chPutb (ch : Chan) (b : Byte) : Statement (.chPutb ch b) := fieldRsv_packWord _ _ _
theorem frmBuild : Statement .frmBuild := fieldRsv_packWord _ _ _
theorem frmParse (count : Half) : Statement (.frmParse count) := fieldRsv_packWord _ _ _
theorem rxCapture (count : Half) : Statement (.rxCapture count) := fieldRsv_packWord _ _ _
theorem raTick : Statement .raTick := fieldRsv_packWord _ _ _
theorem txSend (len : Half) : Statement (.txSend len) := fieldRsv_packWord _ _ _
theorem txDone : Statement .txDone := fieldRsv_packWord _ _ _
theorem cntRead (index : BitVec 3) : Statement (.cntRead index) := fieldRsv_packWord _ _ _
theorem cntReset : Statement .cntReset := fieldRsv_packWord _ _ _

end Sys2Proof.Laws.RsvZero
end

