-- ==== Sys2Proof/Laws/Step.lean ====
section
/-! SUPPORT. What a step can do, said once: what it fetches, and what becomes of it. -/

namespace Sys2Proof.Machine

/-- The moves of a step. -/
theorem fetch_cases (s : State) :
    (∃ s', fetch s = .idle s' ∧ s'.core = s.core ∧ s'.cfg = s.cfg ∧ s'.inProgress = s.inProgress ∧
      s'.initialised = s.initialised ∧ s'.runUse = s.runUse ∧ s'.tx = none ∧ s'.resE = s.resE ∧
      s'.resT = s.resT) ∨
    (∃ ts q, s.turns = .t :: ts ∧ s.inProgress = some q ∧
      fetch s = .resume q.next { s.quiet with turns := ts, cur := q.op }) ∨
    (∃ p ts c cs, s.turns = p :: ts ∧ (p = .t → s.inProgress = none) ∧ (s.portIn p).cmds = c :: cs ∧
      fetch s = .command c.cw
        ((({ s.quiet with turns := ts } : State).setPortIn p ⟨cs, (s.portIn p).din⟩).present p c)) := by
  unfold fetch
  split
  · exact .inl ⟨_, rfl, rfl, rfl, rfl, rfl, rfl, rfl, rfl, rfl⟩
  · next ts ht =>
    unfold issueFrom
    cases hc : (s.portIn .e).cmds with
    | nil =>
      have hc' : (({ s.quiet with turns := ts } : State).portIn .e).cmds = [] := hc
      simp only [hc']
      exact .inl ⟨_, rfl, rfl, rfl, rfl, rfl, rfl, rfl, rfl, rfl⟩
    | cons c cs =>
      have hc' : (({ s.quiet with turns := ts } : State).portIn .e).cmds = c :: cs := hc
      simp only [hc']
      exact .inr (.inr ⟨.e, ts, c, cs, ht, fun h => by simp at h, hc, rfl⟩)
  · next ts ht =>
    split
    · next q hq => exact .inr (.inl ⟨ts, q, ht, hq, rfl⟩)
    · next hq =>
      unfold issueFrom
      cases hc : (s.portIn .t).cmds with
      | nil =>
        have hc' : (({ s.quiet with turns := ts } : State).portIn .t).cmds = [] := hc
        simp only [hc']
        exact .inl ⟨_, rfl, rfl, rfl, rfl, rfl, rfl, rfl, rfl, rfl⟩
      | cons c cs =>
        have hc' : (({ s.quiet with turns := ts } : State).portIn .t).cmds = c :: cs := hc
        simp only [hc']
        exact .inr (.inr ⟨.t, ts, c, cs, ht, fun _ => hq, hc, rfl⟩)

/-- A step that answers a next state was idle, resumed a micro-step, or ran a decoded operation. -/
theorem step_next_cases {s t : State} (h : step s = .next t) :
    fetch s = .idle t ∨ (∃ m s', fetch s = .resume m s' ∧ microStep m s' = .next t) ∨
      ∃ cw s' i, fetch s = .command cw s' ∧ decode cw = .ok i ∧ exec i s' = .next t := by
  unfold step at h
  split at h
  · next s' hf => simp only [Host.Outcome.next.injEq] at h; subst h; exact .inl hf
  · next m s' hf => exact .inr (.inl ⟨m, s', hf, h⟩)
  · next cw s' hf =>
    unfold runWord at h
    split at h
    · cases h
    · next i hd => exact .inr (.inr ⟨cw, s', i, hf, hd, h⟩)

end Sys2Proof.Machine
end

