-- ==== Sys2Proof/Tests/Slice0.lean ====
section
/-! SUPPORT. The model's own tests. Expected values are those of spec/95_test_vectors.md (named in each section)
or hand calculation from the rule named. Then, for every statement with hypotheses, a state that meets them. -/

namespace Sys2Proof.Tests

open Machine

/-! ### What is not well formed is refused (00_scope.md R7, 30_encoding.md R84) -/

theorem test_wf_tc1 : Config.tc1.wf = true := by decide
theorem test_wf_capacity_not_power : ({ Config.tc1 with nIn := 12 }).wf = false := by decide
theorem test_wf_capacity_one : ({ Config.tc1 with nOut := 1 }).wf = false := by decide
theorem test_wf_payload_zero : ({ Config.tc1 with maxPayload := 0 }).wf = false := by decide
theorem test_wf_payload_large : ({ Config.tc1 with maxPayload := 65536 }).wf = false := by decide
theorem test_wf_capture_short : ({ Config.tc1 with minCaptureLen := 35 }).wf = false := by decide
theorem test_wf_counter_width : ({ Config.tc1 with wCnt := 0 }).wf = false := by decide
theorem test_wf_offset_outside : ({ Config.tc1 with offSeq := 23 }).wf = false := by decide
theorem test_wf_offset_overlap : ({ Config.tc1 with offA1 := 5 }).wf = false := by decide
theorem test_wf_counter_index : (Instr.cntRead 6).wf = false := by decide

/-! ### Command words (95_test_vectors.md 2.1) -/

theorem test_decode_sysInit : decode 0x00000000 = .ok .sysInit := by decide
theorem test_decode_chInit : decode 0x0C000000 = .ok (.chInit .chOut) := by decide
theorem test_decode_chAvail : decode 0x10000000 = .ok (.chAvail .chIn) := by decide
theorem test_decode_chRead : decode 0x18000003 = .ok (.chRead .chIn 3) := by decide
theorem test_decode_chWrite : decode 0x24000002 = .ok (.chWrite .chOut 2) := by decide
theorem test_decode_chGetb : decode 0x2C000000 = .ok (.chGetb .chOut) := by decide
theorem test_decode_chPutb : decode 0x3000007F = .ok (.chPutb .chIn 0x7F) := by decide
theorem test_decode_frmBuild : decode 0x40000000 = .ok .frmBuild := by decide
theorem test_decode_frmParse : decode 0x4800002B = .ok (.frmParse 43) := by decide
theorem test_decode_rxCapture : decode 0x5000002B = .ok (.rxCapture 43) := by decide
theorem test_decode_raTick : decode 0x60000000 = .ok .raTick := by decide
theorem test_decode_txSend : decode 0x68000002 = .ok (.txSend 2) := by decide
theorem test_decode_txDone : decode 0x70000000 = .ok .txDone := by decide
theorem test_decode_cntRead : decode 0x80000005 = .ok (.cntRead 5) := by decide
theorem test_decode_cntReset : decode 0x88000000 = .ok .cntReset := by decide
theorem test_encode_chWrite : encode (.chWrite .chIn 5) = 0x20000005 := by decide

theorem test_illegal_op07 : decode 0x38000000 = .error (.reservedOp 0x07) := by decide
theorem test_illegal_op1F : decode 0xF8000000 = .error (.reservedOp 0x1F) := by decide
theorem test_illegal_rsv : decode 0x00010000 = .error (.reservedBits 1) := by decide
theorem test_illegal_ch : decode 0x44000000 = .error .channelBit := by decide
theorem test_illegal_n : decode 0x60000001 = .error (.operandBits 1) := by decide
theorem test_illegal_putb : decode 0x30000100 = .error (.operandBits 0x100) := by decide
theorem test_illegal_index6 : decode 0x80000006 = .error (.counterIndex 6) := by decide
theorem test_illegal_index8 : decode 0x80000008 = .error (.operandBits 8) := by decide
theorem test_tableWord : decodeTableWord 32 0x1C000010 = some (.chRead .chOut 16) := by decide

/-! ### Small states -/

/-- The next state of an outcome. -/
def nextOf : Host.Outcome State Fault Refusal → Option State
  | .next s => some s
  | .fault _ => none
  | .refused _ => none

/-- The operation is presented on port `p` with the sidebands mod = 0, len = `len` and the answer `enq`. -/
def on (p : Port) (len : Half) (enq : Option Bool) (s : State) : State := { s with cur := ⟨p, 0, len, enq, none, 0⟩ }

/-- `din` of port `p`. -/
def din (p : Port) (bs : List Byte) (s : State) : State := s.setPortIn p ⟨[], bs⟩

/-- CH_IN with capacity 8. -/
def eight (s : State) : State := { s with cfg := { s.cfg with nIn := 8 } }

/-- P_PREEMPT = 1. -/
def stepped (s : State) : State := s.withPreempt true

/-- CH_IN as given. -/
def chIn (buf : Memory) (head tail : Nat) (s : State) : State :=
  s.setCore { s.core with chIn := ⟨buf, head, tail⟩ }

/-- CH_OUT as given. -/
def chOut (buf : Memory) (head tail : Nat) (s : State) : State :=
  s.setCore { s.core with chOut := ⟨buf, head, tail⟩ }

def onE : State := on .e 31 none State.reset
def onT : State := on .t 31 none State.reset

/-- `buf` after V2. -/
def bufV2 : Memory := [(0, 1), (1, 2), (2, 3), (3, 4), (4, 5)]

/-- `buf` after V4. -/
def bufV4 : Memory := [(0, 9), (1, 10), (2, 3), (3, 4), (4, 5), (5, 6), (6, 7), (7, 8)]

/-- Indices of CH_IN after an outcome. -/
def indices (o : Host.Outcome State Fault Refusal) : Option (Nat × Nat) :=
  (nextOf o).map fun t => (t.core.chIn.head, t.core.chIn.tail)

/-- The result on port T after an outcome. -/
def resultT (o : Host.Outcome State Fault Refusal) : Option PortResult := (nextOf o).bind (·.resT)

/-- The result on port E after an outcome. -/
def resultE (o : Host.Outcome State Fault Refusal) : Option PortResult := (nextOf o).bind (·.resE)

/-! ### Channels (95_test_vectors.md 2.2) -/

theorem test_V2_write :
    (nextOf (exec (.chWrite .chIn 5) (din .e [1, 2, 3, 4, 5] (eight onE)))).map (·.core.chIn) =
      some ⟨bufV2, 5, 0⟩ := by decide
theorem test_V3_read :
    (resultT (exec (.chRead .chIn 3) (chIn bufV2 5 0 (eight onT)))).map (fun r => (r.rcount, r.dout)) =
      some (3, [1, 2, 3]) := by decide
theorem test_V4_write_wraps :
    (nextOf (exec (.chWrite .chIn 6) (din .e [6, 7, 8, 9, 10, 11] (chIn bufV2 5 3 (eight onE))))).map
      (fun t => (t.core.chIn, t.core.cnt.ovfIn)) = some (⟨bufV4, 2, 3⟩, 1) := by decide
theorem test_V5_avail :
    (resultT (exec (.chAvail .chIn) (chIn bufV4 2 3 (eight onT)))).map (·.rcount) = some 7 := by decide
theorem test_V6_putb_full :
    (nextOf (exec (.chPutb .chIn 0x7F) (chIn bufV4 2 3 (eight onE)))).map
      (fun t => (t.core.chIn, t.core.cnt.ovfIn)) = some (⟨bufV4, 2, 3⟩, 1) := by decide
theorem test_V8_getb :
    (resultT (exec (.chGetb .chIn) (chIn bufV4 2 3 (eight onT)))).map (fun r => (r.rok, r.dout)) =
      some (true, [4]) := by decide
theorem test_V9_putb :
    (nextOf (exec (.chPutb .chIn 0x0C) (chIn bufV4 2 4 (eight onE)))).map
      (fun t => (Memory.read t.core.chIn.buf 2, t.core.chIn.head)) = some (some 0x0C, 3) := by decide
theorem test_V10_read_wraps :
    (resultT (exec (.chRead .chIn 16) (chIn bufV4 2 3 (eight onT)))).map (fun r => (r.rcount, r.dout)) =
      some (7, [4, 5, 6, 7, 8, 9, 10]) := by decide
theorem test_V11_getb_empty :
    (resultT (exec (.chGetb .chIn) (chIn bufV4 3 3 (eight onT)))).map (·.rok) = some false := by decide
theorem test_V16_init : indices (exec (.chInit .chIn) (chIn bufV4 2 3 (eight onT))) = some (0, 0) := by decide

/-! ### The codec (95_test_vectors.md 2.3) -/

/-- The body of PEER(30 12) followed by `rest`, its third address ending in `last`. -/
def peer (last : Byte) (rest : List Byte) : List Byte :=
  [0xD0, 0, 0, 0, 0xFF, 0xFF, 0xFF, 0xFF, 0xFF, 0xFF, 0x02, 0x99, 0x88, 0x77, 0x66, 0x55,
   0x02, 0x11, 0x22, 0x33, 0x44, last, 0x30, 0x12] ++ rest

theorem test_B1_build :
    (resultT (exec .frmBuild onT)).map (·.dout) =
      some [0xD0, 0, 0, 0, 0xFF, 0xFF, 0xFF, 0xFF, 0xFF, 0xFF, 0x02, 0xAA, 0xBB, 0xCC, 0xDD, 0xEE,
        0x02, 0x11, 0x22, 0x33, 0x44, 0x55, 0, 0] := by decide
theorem test_B4_build_wraps :
    (nextOf (exec .frmBuild (onT.setCore { onT.core with seq := 4095 }))).map
      (fun t => (t.core.seq, (t.resT.map fun r => r.dout.drop 22))) = some (0, some [0xF0, 0xFF]) := by decide
theorem test_B6_parse :
    (resultT (exec (.frmParse 43) (din .t (peer 0x55 [0xAA, 0xBB, 0xCC, 0xDE, 0xAD, 0xBE, 0xEF]) onT))).map
      (fun r => (r.parse.fc, r.parse.a3, r.parse.seqno, r.parse.plen, r.parse.payload)) =
      some (0xD0, ⟨0x02, 0x11, 0x22, 0x33, 0x44, 0x55⟩, 0x123, 3, [0xAA, 0xBB, 0xCC]) := by decide
theorem test_B8_parse_negative :
    (resultT (exec (.frmParse 12) (on .t 0 none State.reset))).map (fun r => (r.parse.plen, r.parse.payOff)) =
      some (-28, 36) := by decide

/-! ### The receive filter (95_test_vectors.md 2.4) -/

/-- The counters after an outcome. -/
def counts (o : Host.Outcome State Fault Refusal) : Option Counters := (nextOf o).map (·.core.cnt)

/-- F1, with the last byte of the third address given. -/
def captured (last : Byte) : State := din .e (peer last [0xAA, 0xBB, 0xCC, 0xDE, 0xAD, 0xBE, 0xEF]) onE

theorem test_F1_accepted :
    (nextOf (exec (.rxCapture 43) (captured 0x55))).map (fun t => (t.core.chOut, t.core.cnt)) =
      some (⟨[(0, 0), (1, 3), (2, 0xAA), (3, 0xBB), (4, 0xCC)], 5, 0⟩, ⟨0, 0, 1, 0, 0, 0⟩) := by decide
theorem test_F5_other_link : counts (exec (.rxCapture 43) (captured 0x54)) = some ⟨0, 0, 0, 1, 0, 0⟩ := by decide

/-! ### The reassembler (95_test_vectors.md 2.5) -/

/-- CH_IN holding the bytes of A4, the answer to an enqueue `e`. -/
def ticking (buf : Memory) (e : Bool) : State := on .t 0 (some e) (chIn buf buf.length 0 State.reset)

theorem test_scenarioA :
    (nextOf (exec .raTick (ticking [(0, 0), (1, 3), (2, 0xAA), (3, 0xBB), (4, 0xCC)] true))).map
      (fun t => (t.tx.map (fun f => (f.len, f.frame.drop 22)), t.core.seq, t.core.txReady, t.core.cnt.txOk)) =
      some (some (27, [0, 0, 0xAA, 0xBB, 0xCC]), 1, false, 1) := by decide
theorem test_A3d_length_big_endian :
    (nextOf (exec .raTick (ticking [(0, 1), (1, 0)] true))).map
      (fun t => (t.core.chIn.tail, t.core.rsState, t.core.cnt.txErr)) = some (2, .waitHeader, 1) := by decide
theorem test_A6a_enqueue_refused :
    (nextOf (exec (.txSend 1) (din .t [0x77] (on .t 0 (some false) State.reset)))).map
      (fun t => (t.core.seq, t.core.txReady, t.core.cnt.txErr)) = some (1, true, 1) := by decide
theorem test_A7a_oversized :
    (nextOf (exec (.txSend 9) (din .t [0, 1, 2, 3, 4, 5, 6, 7, 8] onT))).map
      (fun t => (t.core.seq, t.core.cnt.txErr, t.tx)) = some (0, 1, none) := by decide
theorem test_A12_done :
    (nextOf (exec .txDone (onE.setCore { onE.core with txReady := false }))).map (·.core.txReady) =
      some true := by decide

/-! ### Counters, SYS.INIT, ports, preemption (2.6 to 2.8) -/

/-- The counters of K1. -/
def bank (s : State) : State := s.setCore { s.core with cnt := ⟨3, 1, 4, 1, 5, 9⟩ }

theorem test_K1_read : (resultT (exec (.cntRead 5) (bank onT))).map (·.rcount) = some 9 := by decide
theorem test_K2_reset : counts (exec .cntReset (bank onT)) = some ⟨0, 0, 0, 0, 0, 0⟩ := by decide
theorem test_K3_wrap :
    ((CoreState.reset Config.tc1).bump Config.tc1 .rxDrop 0x100000000).cnt.rxDrop = 0 := by decide
theorem test_I1_init : (nextOf (exec .sysInit (bank (chIn bufV2 5 0 onT)))).map (·.core) =
    some (CoreState.reset Config.tc1) := by decide

/-- The configuration inputs as the platform has changed them: another key. -/
def rekeyed : Config := { Config.tc1 with filterKey := ⟨0x02, 0x11, 0x22, 0x33, 0x44, 0x66⟩, nIn := 8 }

/-- The operation finds the configuration inputs changed to `d`. -/
def given (d : Config) (s : State) : State := { s with cur := { s.cur with conf := some d } }

/-- R204: the second SYS.INIT latches the second key, and a key that is presented with another operation is not
latched. -/
theorem test_reinitialisation :
    (nextOf (exec .sysInit (given rekeyed (chIn bufV2 5 0 onT)))).map
      (fun t => (t.core.filterKey, t.core.ownAddr, t.cfg.nIn, t.core.chIn)) =
      some (⟨0x02, 0x11, 0x22, 0x33, 0x44, 0x66⟩, ⟨0x02, 0xAA, 0xBB, 0xCC, 0xDD, 0xEE⟩, 8, ⟨[], 0, 0⟩) := by decide
theorem test_key_only_by_init :
    (nextOf (exec (.chInit .chIn) (given rekeyed onT))).map (fun t => (t.core.filterKey, t.cfg)) =
      some (⟨0x02, 0x11, 0x22, 0x33, 0x44, 0x55⟩, Config.tc1) := by decide
theorem test_wrong_port : nextOf (exec .raTick onE) = none := by decide
theorem test_withFetchWord :
    (nextOf (step (State.reset.withFetchWord 32 0x20000003))).map (·.core.chIn) =
      some ⟨[(0, 0), (1, 0), (2, 0)], 3, 0⟩ := by decide

/-- H1 after T has run u1 and u2 of CH.READ in, 16: three bytes copied, E to write six. -/
def stateH1 : State :=
  { stepped (din .e [6, 7, 8, 9, 10, 11] (chIn [(0, 1), (1, 2), (2, 3)] 3 0 (eight onE))) with
    inProgress := some ⟨onT.cur, .readPublish .chIn 3 [1, 2, 3]⟩ }

theorem test_H1_write_sees_old_tail :
    (nextOf (exec (.chWrite .chIn 6) stateH1)).map
      (fun t => (t.core.chIn.head, t.core.cnt.ovfIn, t.inProgress)) =
      some (7, 2, stateH1.inProgress) := by decide

/-! ### States that meet the hypotheses of the statements, one theorem a statement -/

/-- The command word, presented where it may be issued, with zero bytes on `din`. -/
def issuing (cw : Nat) (s : State) : State := s.withFetchWord 32 cw

/-- Not initialised. -/
def raw (s : State) : State := { s with initialised := false }

/-- P_PREEMPT = 1 with the micro-step given in progress on port T. -/
def between (m : Micro) (s : State) : State := { stepped s with inProgress := some ⟨onT.cur, m⟩ }

/-- A configuration that breaks R7. -/
def broken (s : State) : State := { s with cfg := { s.cfg with nIn := 12 } }

/-- Three channel bytes 1, 2, 3 and one byte of `pkt_buf`. -/
def buf3 : Memory := [(0, 1), (1, 2), (2, 3)]

/-- In ACCUMULATE, one byte of `expected` received, `buf` in CH_IN, the transport to answer `true`. -/
def partway (buf : Memory) (expected : Half) : State :=
  (ticking buf true).setCore { (ticking buf true).core with
    rsState := .accumulate, expected := expected, received := 1, pktBuf := [(0, 0xA1)] }

/-- `tx_ready` = 0. -/
def busy (s : State) : State := s.setCore { s.core with txReady := false }

theorem coreOk_reset : CoreOk Config.tc1 (CoreState.reset Config.tc1) :=
  ⟨fun ch => by cases ch <;> (unfold ChannelOk; decide +kernel), fun c => by cases c <;> decide +kernel,
   by unfold PacketBufferOk; decide +kernel, by unfold LengthsOk; decide +kernel⟩

/-- An architectural state of TC1 that differs from reset in CH_IN and the reassembler only. -/
theorem coreOk_of {k : CoreState} (h : ChannelOk Config.tc1 k .chIn) (ho : ChannelOk Config.tc1 k .chOut)
    (hp : PacketBufferOk Config.tc1 k) (hl : LengthsOk Config.tc1 k)
    (hc : k.cnt = (CoreState.reset Config.tc1).cnt) : CoreOk Config.tc1 k :=
  ⟨fun ch => by cases ch <;> assumption, fun c => by rw [hc]; cases c <;> decide, hp, hl⟩

theorem coreOk_ticking : CoreOk Config.tc1 (ticking buf3 true).core := by
  refine coreOk_of ?_ ?_ ?_ ?_ rfl <;>
    first | (unfold ChannelOk; decide +kernel) | (unfold PacketBufferOk; decide +kernel) |
      (unfold LengthsOk; decide +kernel)

theorem coreOk_partway (e : Half) (h : e = 3 ∨ e = 4 ∨ e = 5) : CoreOk Config.tc1 (partway buf3 e).core := by
  refine coreOk_of ?_ ?_ ?_ ?_ rfl <;> rcases h with rfl | rfl | rfl <;>
    first | (unfold ChannelOk; decide +kernel) | (unfold PacketBufferOk; decide +kernel) |
      (unfold LengthsOk; decide +kernel)

theorem witness_DecodeEncodeRoundTrip : (Instr.cntRead 5).wf = true ∧ (Instr.chPutb .chOut 255).wf = true := by
  decide
theorem witness_DecodedWordIsItsEncoding :
    decode 0x80000005 = .ok (.cntRead 5) ∧ decode 0x1FFF0000 = .error (.reservedBits 0x3FF) := by decide
theorem witness_DecodeFollowsOpcodeMap :
    (∃ r ∈ opcodeMap, r.fits 0x80000005 = true ∧ (r.mnemonic = "CNT.READ" → (0x80000005 : Word).toNat % 8 ≤ 5)) ∧
    (∀ r ∈ opcodeMap, r.fits 0x80000006 = true → r.mnemonic = "CNT.READ" ∧ 5 < (0x80000006 : Word).toNat % 8) ∧
    (∀ r ∈ opcodeMap, r.fits 0x38000000 = true → r.mnemonic = "CNT.READ" ∧ 5 < (0x38000000 : Word).toNat % 8) := by
  decide
theorem witness_IllegalWordsAreRefused :
    decode 0x58000000 = .error (.reservedOp 0x0B) ∧ decode 0x78000000 = .error (.reservedOp 0x0F) ∧
    decode 0x90000000 = .error (.reservedOp 0x12) ∧ decode 0x8C000000 = .error .channelBit ∧
    decode 0x88000001 = .error (.operandBits 1) ∧ decode 0x3000FF00 = .error (.operandBits 0xFF00) := by decide

theorem witness_StepRunsThePresentedCommand :
    ((issuing 0x60000000 State.reset).turns = [.t] ∧ (issuing 0x60000000 State.reset).inProgress = none ∧
      ((issuing 0x60000000 State.reset).portIn .t).cmds = [⟨0x60000000, 0, 0, none, none⟩] ∧
      decode 0x60000000 = .ok .raTick) ∧
    ((issuing 0x38000000 State.reset).turns = [.t] ∧
      ((issuing 0x38000000 State.reset).portIn .t).cmds = [⟨0x38000000, 0, 0, none, none⟩] ∧
      decode 0x38000000 = .error (.reservedOp 7)) ∧
    (between (.getbCopy .chIn) (issuing 0x70000000 State.reset)).turns = [.e] := by decide
theorem witness_StepResumesOrIdles :
    ({ between (.getbCopy .chIn) State.reset with turns := [.t] } : State).inProgress =
      some ⟨onT.cur, .getbCopy .chIn⟩ ∧ State.reset.turns = [] ∧
    ({ State.reset with turns := [.e] } : State).turns = [.e] ∧ (State.reset.portIn .e).cmds = [] := by decide
theorem witness_BrokenConfigurationIsRefused :
    (broken State.reset).cfg.wf = false ∧
    ({ Config.tc1 with nIn := 2, wCnt := 1, maxPayload := 65535 }).wf = true := by
  decide
theorem witness_RefusedBeforeInitialisation :
    (raw State.reset).cfg.wf = true ∧ (raw State.reset).initialised = false ∧ Instr.raTick ≠ .sysInit := by decide
theorem witness_PortTableIsEnforced :
    onE.cfg.wf = true ∧ onE.initialised = true ∧ ¬ PortAllows onE .raTick ∧ PortAllows onE .txDone :=
  ⟨by decide, rfl, by unfold PortAllows; decide, rfl⟩

/-- A reset state issues `cw` as `i` on port `p` and goes on. -/
def GoesOn (cw : Nat) (p : Port) (i : Instr) : Prop :=
  (∃ t, step (issuing cw State.reset) = .next t) ∧ Issues (issuing cw State.reset) i ∧
    StepsOn (issuing cw State.reset) p

theorem witness_ChannelEndsStayBound :
    GoesOn 0x1C000010 .t (.chRead .chOut 16) ∧ GoesOn 0x2C000000 .t (.chGetb .chOut) ∧
    GoesOn 0x60000000 .t .raTick ∧ GoesOn 0x18000003 .t (.chRead .chIn 3) ∧
    GoesOn 0x28000000 .t (.chGetb .chIn) ∧ GoesOn 0x50000000 .e (.rxCapture 0) ∧
    GoesOn 0x24000000 .e (.chWrite .chOut 0) ∧ GoesOn 0x34000007 .e (.chPutb .chOut 7) := by
  refine ⟨?_, ?_, ?_, ?_, ?_, ?_, ?_, ?_⟩ <;> exact ⟨⟨_, rfl⟩, ⟨_, _, rfl, by decide⟩, by unfold StepsOn; decide⟩
theorem witness_ShortOperandStreamIsRefused :
    (MayProduce onE .chIn ∧ MayProduce onE .chOut ∧ ¬ Supplied onE 1) ∧ (Ready onT .t ∧ ¬ Supplied onT 1) ∧
    (Ready onE .e ∧ onE.runUse.directOut = false ∧ ¬ Supplied onE (bodyLen onE.cfg 13)) :=
  ⟨⟨⟨by decide, rfl, rfl⟩, ⟨⟨by decide, rfl, rfl⟩, rfl⟩, by unfold Supplied; decide⟩,
   ⟨⟨by decide, rfl, rfl⟩, by unfold Supplied; decide⟩, ⟨by decide, rfl, rfl⟩, rfl, by unfold Supplied; decide⟩
theorem witness_SysInit :
    ((raw onT).cfg.wf = true ∧ (raw onT).confIn = Config.tc1 ∧ (raw onT).confIn.wf = true ∧ (raw onT).cur.port = .t ∧
      (raw onT).initialised = false) ∧
    ((given rekeyed onT).cfg.wf = true ∧ (given rekeyed onT).confIn = rekeyed ∧ rekeyed.wf = true ∧
      (given rekeyed onT).cur.port = .t) := by decide

theorem witness_OccupancyAndFlags :
    2 ≤ Config.tc1.cap .chIn ∧ ChannelOk Config.tc1 (CoreState.reset Config.tc1) .chIn ∧
    ChannelOk (eight onT).cfg (chIn bufV4 2 3 (eight onT)).core .chIn ∧
    isFull (eight onT).cfg (chIn bufV4 2 3 (eight onT)).core .chIn = true :=
  ⟨by decide, coreOk_reset.1 _, by unfold ChannelOk; decide +kernel, by decide⟩
theorem witness_ReadyOnEitherPort : Ready onT .t ∧ Ready onE .e := ⟨⟨by decide, rfl, rfl⟩, by decide, rfl, rfl⟩
theorem witness_ChReadAndChGetb :
    MayConsume (chIn bufV4 2 3 (eight onT)) .chIn ∧ (chIn bufV4 2 3 (eight onT)).stepwise = false ∧
    ChannelOk (eight onT).cfg (chIn bufV4 2 3 (eight onT)).core .chIn ∧
    MayConsume onE .chOut ∧ onE.stepwise = false ∧ ChannelOk onE.cfg onE.core .chOut ∧
    occ onE.cfg onE.core .chOut = 0 :=
  ⟨⟨⟨by decide, rfl, rfl⟩, rfl⟩, rfl, by unfold ChannelOk; decide +kernel, ⟨_, ⟨by decide, rfl, rfl⟩, .inl rfl⟩, rfl,
   coreOk_reset.1 _, rfl⟩
theorem witness_ChWriteAndChPutb :
    MayProduce (din .e [9, 9, 9] (chIn bufV4 2 4 (eight onE))) .chIn ∧
    Supplied (din .e [9, 9, 9] (chIn bufV4 2 4 (eight onE))) 3 ∧
    ChannelOk (eight onE).cfg (chIn bufV4 2 4 (eight onE)).core .chIn ∧
    free (eight onE).cfg (chIn bufV4 2 4 (eight onE)).core .chIn = 1 ∧
    free (eight onE).cfg (chIn bufV4 2 3 (eight onE)).core .chIn = 0 ∧ MayProduce onE .chOut ∧ Supplied onE 0 :=
  ⟨⟨by decide, rfl, rfl⟩, by unfold Supplied; decide, by unfold ChannelOk; decide +kernel, by decide, by decide,
   ⟨⟨by decide, rfl, rfl⟩, rfl⟩, by unfold Supplied; decide⟩

/-- CH_IN of reset written with three bytes, on port E. -/
def written : State := (nextOf (exec (.chWrite .chIn 3) (din .e [1, 2, 3] onE))).getD State.reset

/-- Two of them read, on port T. -/
def readBack : State := (nextOf (exec (.chRead .chIn 2) { written with cur := onT.cur })).getD State.reset

theorem witness_Traffic :
    ∃ n a b, Traffic .chIn State.reset n a b readBack ∧ n = 3 ∧ a = [1, 2, 3] ∧ b = [1, 2] :=
  ⟨_, _, _,
   .read (u := written) (v := { written with cur := onT.cur }) (max := 2)
    (r := readBack.resT.getD (freeResult 0))
    (.write (u := State.reset) (v := din .e [1, 2, 3] onE) (len := 3) (r := written.resE.getD (freeResult 0))
      .start ⟨rfl, rfl, rfl, rfl⟩ rfl rfl)
    ⟨rfl, rfl, rfl, rfl⟩ rfl rfl rfl rfl, rfl, by decide +kernel, by decide +kernel⟩

/-- The next micro-step on port T, no matter whose turn it is. -/
def oneMicro (s : State) : State := (nextOf (runOn 1 s)).getD s

/-- A preempted CH.READ in, 16 of three bytes after u1. -/
def readBegun : State := (nextOf (exec (.chRead .chIn 16) (stepped (chIn buf3 3 0 onT)))).getD State.reset

/-- After u2, and the write of a byte that comes then. -/
def readCopied : State := { oneMicro readBegun with cur := onE.cur }
def writtenBetween : State := (nextOf (exec (.chPutb .chIn 4) readCopied)).getD State.reset

/-- A read in micro-steps with a write between its copy and its publication. -/
theorem witness_Traffic_preempted :
    ∃ n a b, Traffic .chIn (stepped (chIn buf3 3 0 onT)) n a b (oneMicro writtenBetween) ∧
      n = 1 ∧ a = [4] ∧ b = [1, 2, 3] :=
  ⟨_, _, _,
   .micro (u := writtenBetween) (v := writtenBetween)
    (.putb (u := oneMicro readBegun) (v := readCopied) (r := writtenBetween.resE.getD (freeResult 0))
      (.micro (u := readBegun) (v := readBegun)
        (.readStart (u := stepped (chIn buf3 3 0 onT)) (v := stepped (chIn buf3 3 0 onT)) (max := 16) .start
          ⟨rfl, rfl, rfl, rfl⟩ rfl rfl rfl)
        ⟨rfl, rfl, rfl, rfl⟩ rfl rfl)
      ⟨rfl, rfl, rfl, rfl⟩ rfl rfl)
    ⟨rfl, rfl, rfl, rfl⟩ rfl rfl,
   by decide +kernel, by decide +kernel, by decide +kernel⟩
theorem witness_FifoAndOverflow :
    State.reset.cfg.wf = true ∧ CoreOk State.reset.cfg State.reset.core ∧
    occ State.reset.cfg State.reset.core .chIn = 0 := ⟨by decide, coreOk_reset, rfl⟩

theorem inv_reset : Inv State.reset := ⟨by decide, fun _ => ⟨coreOk_reset, nofun⟩, nofun⟩
theorem witness_Inv_and_next :
    Inv (issuing 0x20000003 State.reset) ∧ ∃ t, step (issuing 0x20000003 State.reset) = .next t :=
  ⟨⟨by decide, fun _ => ⟨coreOk_reset, nofun⟩, nofun⟩, _, rfl⟩

theorem witness_FrmParse :
    Ready (captured 0x55) .e ∧ Supplied (captured 0x55) (bodyLen (captured 0x55).cfg 43) ∧
    (captured 0x55).runUse.directOut = false :=
  ⟨⟨by decide, rfl, rfl⟩, by unfold Supplied; decide, rfl⟩
theorem witness_AcceptedCapture :
    ChannelOk (captured 0x55).cfg (captured 0x55).core .chOut ∧
    ∃ t r, exec (.rxCapture 43) (captured 0x55) = .next t ∧ t.resE = some r ∧ r.rok = true :=
  ⟨coreOk_reset.1 _, _, _, rfl, rfl, rfl⟩

/-- Device Y of program P5 capturing the frame device X built with number 0. -/
theorem witness_PeerFrameIsCapturedWhole :
    let y := din .e (buildHeader Config.tc1 State.reset.core 0 ++ [0xAA, 0xBB, 0xCC] ++ [1, 2, 3, 4]) onE
    State.reset.cfg.wf = true ∧ y.cfg.headerFields = State.reset.cfg.headerFields ∧
    y.cfg.frameTypeCode = State.reset.cfg.frameTypeCode ∧ y.core.filterKey = State.reset.core.filterKey ∧
    Ready y .e ∧ y.runUse.directOut = false ∧ ChannelOk y.cfg y.core .chOut ∧
    bodyLen y.cfg 43 = 24 + 3 + 4 ∧ y.cfg.minCaptureLen ≤ (43 : Half).toNat ∧
    y.cur.modInd = y.cfg.modBaseline ∧ y.cur.legacyLen.toNat = 24 + 3 + 4 ∧ 3 ≤ y.cfg.maxPayload ∧
    2 + 3 ≤ free y.cfg y.core .chOut :=
  ⟨by decide, rfl, rfl, rfl, ⟨by decide, rfl, rfl⟩, rfl, coreOk_reset.1 _, by decide, by decide, rfl, by decide,
   by decide, by decide⟩

theorem tickReady_ticking : TickReady (ticking buf3 true) :=
  ⟨⟨by decide, rfl, rfl⟩, rfl, rfl, coreOk_ticking, nofun⟩
theorem tickReady_partway (e : Half) (h : e = 3 ∨ e = 4 ∨ e = 5) : TickReady (partway buf3 e) :=
  ⟨⟨(by decide : Config.tc1.wf = true), rfl, rfl⟩, rfl, rfl, coreOk_partway e h,
   fun _ => by rcases h with rfl | rfl | rfl <;> decide⟩
theorem witness_RaTickCompletes :
    Ready (stepped (ticking buf3 true)) .t ∧ (stepped (ticking buf3 true)).runUse.directIn = false ∧
    CoreOk (ticking buf3 true).cfg (ticking buf3 true).core ∧ BetweenOk (partway buf3 3).core :=
  ⟨⟨by decide, rfl, rfl⟩, rfl, coreOk_ticking, fun _ => by decide⟩

theorem witness_TickPersistence :
    (TickReady (chIn [] 0 0 (ticking buf3 true)) ∧ occ Config.tc1 (chIn [] 0 0 (ticking buf3 true)).core .chIn = 0) ∧
    (TickReady (chIn [(0, 0)] 1 0 (ticking buf3 true)) ∧
      occ Config.tc1 (chIn [(0, 0)] 1 0 (ticking buf3 true)).core .chIn = 1) ∧
    (TickReady (chIn buf3 3 3 (partway buf3 4)) ∧ occ Config.tc1 (chIn buf3 3 3 (partway buf3 4)).core .chIn = 0) ∧
    (TickReady (partway buf3 5) ∧ occ Config.tc1 (partway buf3 5).core .chIn = 3 ∧
      3 < (partway buf3 5).core.expected.toNat - (partway buf3 5).core.received.toNat) := by
  refine ⟨⟨⟨⟨by decide, rfl, rfl⟩, rfl, rfl, ?_, nofun⟩, by decide⟩,
    ⟨⟨⟨by decide, rfl, rfl⟩, rfl, rfl, ?_, nofun⟩, by decide⟩,
    ⟨⟨⟨by decide, rfl, rfl⟩, rfl, rfl, ?_, fun _ => by decide⟩, by decide⟩,
    tickReady_partway _ (by decide), by decide, by decide⟩ <;>
  · refine coreOk_of ?_ ?_ ?_ ?_ rfl <;>
      first | (unfold ChannelOk; decide +kernel) | (unfold PacketBufferOk; decide +kernel) |
      (unfold LengthsOk; decide +kernel)

/-- A length of 0, the largest valid one and the one above it, in CH_IN. -/
theorem coreOk_header (b : Byte) (h : b = 0 ∨ b = 8 ∨ b = 9) :
    CoreOk Config.tc1 (ticking [(0, 0), (1, b)] true).core := by
  refine coreOk_of ?_ ?_ ?_ ?_ rfl <;> rcases h with rfl | rfl | rfl <;>
    first | (unfold ChannelOk; decide +kernel) | (unfold PacketBufferOk; decide +kernel) |
      (unfold LengthsOk; decide +kernel)
theorem witness_MalformedHeaderLaw :
    (TickReady (ticking [(0, 0), (1, 0)] true) ∧
      (held Config.tc1 (ticking [(0, 0), (1, 0)] true).core .chIn).take 2 = [some 0, some 0]) ∧
    (TickReady (ticking [(0, 0), (1, 9)] true) ∧
      (held Config.tc1 (ticking [(0, 0), (1, 9)] true).core .chIn).take 2 = [some 0, some 9] ∧
      Config.tc1.maxPayload < 256 * (0 : Byte).toNat + (9 : Byte).toNat) :=
  ⟨⟨⟨⟨by decide, rfl, rfl⟩, rfl, rfl, coreOk_header _ (by decide), nofun⟩, by decide⟩,
   ⟨⟨by decide, rfl, rfl⟩, rfl, rfl, coreOk_header _ (by decide), nofun⟩, by decide, by decide⟩
theorem witness_TickGoesOnAfterAHeader :
    TickReady (ticking [(0, 0), (1, 8)] true) ∧
    (held Config.tc1 (ticking [(0, 0), (1, 8)] true).core .chIn).take 2 = [some 0, some 8] ∧
    256 * (0 : Byte).toNat + (8 : Byte).toNat = Config.tc1.maxPayload :=
  ⟨⟨⟨by decide, rfl, rfl⟩, rfl, rfl, coreOk_header _ (by decide), nofun⟩, by decide, by decide⟩
theorem witness_TickCompletesThePacket :
    TickReady (partway buf3 4) ∧ (partway buf3 4).core.rsState = .accumulate ∧
    (partway buf3 4).core.expected.toNat - (partway buf3 4).core.received.toNat =
      occ Config.tc1 (partway buf3 4).core .chIn := ⟨tickReady_partway _ (by decide), rfl, by decide⟩
theorem witness_TxSendContract :
    Ready (din .t [1, 2, 3, 4, 5, 6, 7, 8, 9] onT) .t ∧ (din .t [1, 2, 3, 4, 5, 6, 7, 8, 9] onT).stepwise = false ∧
    Supplied (din .t [1, 2, 3, 4, 5, 6, 7, 8, 9] onT) 0 ∧ Supplied (din .t [1, 2, 3, 4, 5, 6, 7, 8, 9] onT) 8 ∧
    Supplied (din .t [1, 2, 3, 4, 5, 6, 7, 8, 9] onT) 9 ∧ onT.core.txReady = true ∧ (busy onT).core.txReady = false ∧
    Ready (busy (din .t [1] onT)) .t ∧ Supplied (busy (din .t [1] onT)) 1 :=
  ⟨⟨by decide, rfl, rfl⟩, rfl, by unfold Supplied; decide, by unfold Supplied; decide, by unfold Supplied; decide,
   rfl, rfl, ⟨by decide, rfl, rfl⟩, by unfold Supplied; decide⟩

/-- The command of `cw` on port T with its first byte of `din` and the answer 1. -/
def sending : State :=
  { State.reset with turns := [.t], portT := ⟨[⟨0x68000001, 0, 0, some true, none⟩], [0x77]⟩ }

/-- After the transmission: one outstanding, and TX.DONE presented. -/
def outstanding : State :=
  { (nextOf (step sending)).getD State.reset with turns := [.e], portE := ⟨[⟨0x70000000, 0, 0, none, none⟩], []⟩ }

theorem not_issues {s s' : State} {cw : Word} {i j : Instr} (h : fetch s = .command cw s') (hd : decode cw = .ok j)
    (hij : i ≠ j) : ¬ Issues s i := by
  rintro ⟨cw', s'', h', hd'⟩
  rw [h] at h'
  cases h'
  rw [hd] at hd'
  exact hij (Except.ok.inj hd').symm

theorem sending_issues_only {i : Instr} (h : i ≠ .txSend 1) : ¬ Issues sending i :=
  not_issues (cw := 0x68000001) rfl (by decide) h

theorem witness_OneOutstandingTransmission :
    ∃ t, step sending = .next t ∧ t.core.txReady = false ∧ Outstanding t 1 :=
  ⟨_, rfl, rfl, .enqueue (.start rfl) rfl (sending_issues_only (by decide)) (sending_issues_only (by decide)) rfl rfl⟩
theorem coreOk_busy : CoreOk Config.tc1 (busy (partway buf3 4)).core := by
  refine coreOk_of ?_ ?_ ?_ ?_ rfl <;>
    first | (unfold ChannelOk; decide +kernel) | (unfold PacketBufferOk; decide +kernel) |
      (unfold LengthsOk; decide +kernel)
theorem witness_busy_tick :
    TickReady (busy (partway buf3 4)) ∧ (busy (partway buf3 4)).core.txReady = false ∧
    (busy (partway buf3 4)).core.rsState = .accumulate ∧ occ Config.tc1 (busy (partway buf3 4)).core .chIn = 3 ∧
    (busy (partway buf3 4)).core.expected.toNat - (busy (partway buf3 4)).core.received.toNat = 3 :=
  ⟨⟨⟨by decide, rfl, rfl⟩, rfl, rfl, coreOk_busy, fun _ => by decide⟩, rfl, rfl, by decide, by decide⟩
theorem witness_TxDoneSetsTheFlag :
    (∃ t, exec .raTick (busy (partway buf3 4)) = .next t) ∧ Instr.raTick ≠ .txDone ∧ Instr.raTick ≠ .sysInit ∧
    ∃ t, microStep .tickSend (busy (partway buf3 4)) = .next t := ⟨⟨_, rfl⟩, by decide, by decide, _, rfl⟩
theorem witness_Outstanding_complete :
    (∃ t, step outstanding = .next t ∧ t.core.txReady = true) ∧ Issues outstanding .txDone :=
  ⟨⟨_, rfl, rfl⟩, _, _, rfl, by decide⟩

/-- CH_IN of reset written with the packet 00 01 5A. -/
def packetIn : State := (nextOf (exec (.chWrite .chIn 3) (din .e [0, 1, 0x5A] onE))).getD State.reset

/-- The tick that completes it, `tx_ready` as given. -/
def ticked (ready : Bool) : State :=
  { packetIn with cur := ⟨.t, 0, 0, some true, none, 0⟩, core := { packetIn.core with txReady := ready } }

theorem witness_EndToEndLaw (ready : Bool) :
    ∃ a fs t, Feed ready State.reset a fs t ∧ a = [hi8 1, lo8 1] ++ [0x5A] ∧
      occ t.cfg t.core .chIn = 0 ∧ t.core.rsState = .waitHeader ∧ CoreOk State.reset.cfg State.reset.core ∧
      State.reset.tickPending = none ∧ State.reset.core.rsState = .waitHeader ∧
      occ State.reset.cfg State.reset.core .chIn = 0 :=
  ⟨_, _, (nextOf (exec .raTick (ticked ready))).getD State.reset,
   .tick (u := packetIn) (v := ticked ready)
    (.write (u := State.reset) (v := din .e [0, 1, 0x5A] onE) (len := 3) (r := packetIn.resE.getD (freeResult 0))
      .start ⟨rfl, rfl, rfl, rfl, rfl, rfl, rfl, rfl, rfl, rfl⟩ rfl rfl (by decide +kernel))
    ⟨rfl, rfl, rfl, rfl, rfl, rfl, rfl, rfl, rfl, rfl⟩ rfl rfl (by cases ready <;> rfl) (fun _ _ => rfl),
   by decide +kernel, by cases ready <;> decide +kernel, by cases ready <;> rfl, coreOk_reset, rfl, rfl, rfl⟩

/-- Reset under P_PREEMPT = 1 with the bytes 00 01 in CH_IN, the tick begun, and what it has reached after `n`
micro-steps. -/
def prefixIn : State :=
  (nextOf (exec (.chWrite .chIn 2) (stepped (din .e [0, 1] onE)))).getD State.reset
def tickBegun : State :=
  (nextOf (exec .raTick { prefixIn with cur := ⟨.t, 0, 0, some true, none, 0⟩ })).getD State.reset
def tickAfter : Nat → State
  | 0 => tickBegun
  | n + 1 => oneMicro (tickAfter n)

/-- The payload byte 5A comes between the header's publication and the payload's snapshot. -/
def lateByte : State := { tickAfter 3 with cur := onE.cur }
def lateWritten : State := (nextOf (exec (.chWrite .chIn 1) (din .e [0x5A] lateByte))).getD State.reset
def lateAfter : Nat → State
  | 0 => lateWritten
  | n + 1 => oneMicro (lateAfter n)

/-- The frame pulse of the atomic block is over, and the tick ends. -/
def lateSent : State := { lateAfter 4 with tx := none }

theorem sameInward_refl (s : State) : SameInward s s := ⟨rfl, rfl, rfl, rfl, rfl, rfl, rfl, rfl, rfl, rfl⟩

/-- A tick in micro-steps with the packet's last byte written between two of them (R213). -/
theorem witness_EndToEndLaw_preempted :
    ∃ a fs, Feed true (stepped State.reset) a fs (oneMicro lateSent) ∧ a = [hi8 1, lo8 1] ++ [0x5A] ∧
      occ Config.tc1 (oneMicro lateSent).core .chIn = 0 ∧ (oneMicro lateSent).core.rsState = .waitHeader ∧
      fs.length = 1 := by
  have w := Feed.write (ready := true) (s := stepped State.reset) (u := stepped State.reset)
    (v := stepped (din .e [0, 1] onE)) (t := prefixIn) (len := 2) (r := prefixIn.resE.getD (freeResult 0)) .start
    ⟨rfl, rfl, rfl, rfl, rfl, rfl, rfl, rfl, rfl, rfl⟩ rfl rfl (by decide +kernel)
  have b := Feed.tick (v := { prefixIn with cur := ⟨.t, 0, 0, some true, none, 0⟩ }) (t := tickBegun) w
    ⟨rfl, rfl, rfl, rfl, rfl, rfl, rfl, rfl, rfl, rfl⟩ rfl rfl rfl (fun h => absurd rfl h)
  have m1 := Feed.micro (t := tickAfter 1) b (sameInward_refl _) rfl rfl rfl nofun
  have m2 := Feed.micro (t := tickAfter 2) m1 (sameInward_refl _) rfl rfl rfl nofun
  have m3 := Feed.micro (t := tickAfter 3) m2 (sameInward_refl _) rfl rfl rfl nofun
  have e := Feed.write (v := din .e [0x5A] lateByte) (t := lateWritten) (len := 1)
    (r := lateWritten.resE.getD (freeResult 0)) m3
    ⟨rfl, rfl, rfl, rfl, rfl, rfl, rfl, rfl, rfl, rfl⟩ rfl rfl (by decide +kernel)
  have l1 := Feed.micro (t := lateAfter 1) e (sameInward_refl _) rfl rfl rfl nofun
  have l2 := Feed.micro (t := lateAfter 2) l1 (sameInward_refl _) rfl rfl rfl nofun
  have l3 := Feed.micro (t := lateAfter 3) l2 (sameInward_refl _) rfl rfl rfl nofun
  have l4 := Feed.micro (t := lateAfter 4) l3 (sameInward_refl _) rfl rfl rfl (fun _ => rfl)
  have l5 := Feed.micro (v := lateSent) (t := oneMicro lateSent) l4
    ⟨rfl, rfl, rfl, rfl, rfl, rfl, rfl, rfl, rfl, rfl⟩ rfl rfl rfl nofun
  exact ⟨_, _, l5, by decide +kernel, by decide +kernel, by decide +kernel, by decide +kernel⟩

theorem witness_DrainedTickChangesNothing :
    Ready (stepped onT) .t ∧ (stepped onT).runUse.directIn = false ∧ Drained (stepped onT) ∧ Drained onT :=
  ⟨⟨by decide, rfl, rfl⟩, rfl, ⟨rfl, rfl, rfl, rfl⟩, ⟨rfl, rfl, rfl, rfl⟩⟩
theorem witness_CntRead :
    Ready (bank onT) .t ∧ Ready (bank onE) .e ∧ (5 : BitVec 3).toNat = counterIndex .ovfOut ∧
    (0 : BitVec 3).toNat = counterIndex .txOk ∧ 5 < (6 : BitVec 3).toNat ∧ 5 < (7 : BitVec 3).toNat :=
  ⟨⟨by decide, rfl, rfl⟩, ⟨by decide, rfl, rfl⟩, by decide⟩
theorem witness_OperationsIncrementOnlyTheirCounters :
    (∃ t, exec .raTick (ticking [(0, 0), (1, 0)] true) = .next t) ∧ Instr.raTick ≠ .sysInit ∧
    Instr.raTick ≠ .cntReset ∧ ∃ t, microStep .tickBadLength (between .tickBadLength onT) = .next t :=
  ⟨⟨_, rfl⟩, by decide, by decide, _, rfl⟩
theorem witness_KeyAndSequence :
    (∃ t, step (issuing 0x00000000 State.reset) = .next t) ∧ Issues (issuing 0x00000000 State.reset) .sysInit ∧
    (∃ t, step (issuing 0x40000000 State.reset) = .next t) ∧ ¬ Issues (issuing 0x40000000 State.reset) .sysInit ∧
    Issues (issuing 0x40000000 State.reset) .frmBuild :=
  ⟨⟨_, rfl⟩, ⟨_, _, rfl, by decide⟩, ⟨_, rfl⟩, not_issues (j := .frmBuild) rfl (by decide) (by decide), _, _, rfl,
   by decide⟩

/-- SYS.INIT presented on port T with the configuration inputs changed to `d`. -/
def reinit (d : Config) : State := { State.reset with turns := [.t], portT := ⟨[⟨0, 0, 0, none, some d⟩], []⟩ }

theorem witness_Reinitialisation (d : Config) :
    Inv (reinit d) ∧ (reinit d).turns = [.t] ∧ (reinit d).inProgress = none ∧
    ((reinit d).portIn .t).cmds = [⟨0, 0, 0, none, some d⟩] ∧ decode 0 = .ok .sysInit ∧
    rekeyed.wf = true ∧ ({ Config.tc1 with nIn := 12 }).wf = false :=
  ⟨inv_reset, rfl, rfl, rfl, by decide, by decide, by decide⟩
theorem witness_KeyByReinitialisation :
    (∃ t, step (reinit rekeyed) = .next t ∧ t.core.filterKey ≠ State.reset.core.filterKey) ∧
    Issues (reinit rekeyed) .sysInit := ⟨⟨_, rfl, by decide⟩, _, _, rfl, by decide⟩
theorem test_broken_inputs :
    step (reinit { Config.tc1 with nIn := 12 }) = .refused .invalidConfiguration := rfl
theorem witness_EventStep :
    (∃ t, step outstanding = .next t) ∧ StepsOn outstanding .e := ⟨⟨_, rfl⟩, rfl⟩
theorem witness_TickStep :
    (∃ t, step sending = .next t) ∧ StepsOn sending .t ∧ ¬ Issues sending .sysInit ∧
    (∀ ch, ¬ Issues sending (.chInit ch)) ∧ sending.core.txReady = true :=
  ⟨⟨_, rfl⟩, rfl, sending_issues_only (by decide),
   fun _ => sending_issues_only nofun, rfl⟩
theorem witness_PreemptedOperationsStart :
    (MayConsume (stepped (chIn buf3 3 0 onT)) .chIn ∧ (stepped (chIn buf3 3 0 onT)).stepwise = true ∧
      (chIn buf3 3 0 onT).core.chIn.head ≠ (chIn buf3 3 0 onT).core.chIn.tail) ∧
    (MayConsume (stepped onT) .chOut ∧ (stepped onT).stepwise = true) ∧
    (Ready (busy (stepped (din .t [1] onT))) .t ∧ (busy (stepped (din .t [1] onT))).stepwise = true ∧
      Supplied (busy (stepped (din .t [1] onT))) 1 ∧ (busy (stepped (din .t [1] onT))).core.txReady = false) :=
  ⟨⟨⟨⟨by decide, rfl, rfl⟩, rfl⟩, rfl, by decide⟩, ⟨⟨_, ⟨by decide, rfl, rfl⟩, .inl rfl⟩, rfl⟩,
   ⟨by decide, rfl, rfl⟩, rfl, by unfold Supplied; decide, rfl⟩
theorem witness_PreemptSettingsAgree :
    (ticking buf3 true).inProgress = none ∧ ∃ t, exec .raTick ((partway buf3 4).withPreempt true) = .next t :=
  ⟨rfl, _, rfl⟩

/-- H1, E to write. -/
def stateH1E : State := { stateH1 with turns := [.e], portE := ⟨[⟨0x20000006, 0, 0, none, none⟩], [6, 7, 8, 9, 10, 11]⟩ }

/-- H1 after E's write, T to publish. -/
def stateH1T : State := { (nextOf (exec (.chWrite .chIn 6) stateH1)).getD State.reset with turns := [.t] }

theorem test_H1_publish :
    (nextOf (step stateH1T)).map (fun t => (t.core.chIn.tail, t.core.cnt.ovfIn, occ t.cfg t.core .chIn)) =
      some (3, 2, 4) ∧
    (resultT (step stateH1T)).map (fun r => (r.rcount, r.dout)) = some (3, [1, 2, 3]) := by decide

/-- The invariant of an initialised state on port T, from its parts. -/
theorem inv_between {s : State} {q : InProgress} (hw : s.cfg.wf = true) (hi : s.initialised = true)
    (hc : CoreOk s.cfg s.core) (hq : s.inProgress = some q) (hp : q.op.port = .t) (hm : MicroOk s q.next) :
    Inv s := by
  refine ⟨hw, fun _ => ⟨hc, ?_⟩, fun h => absurd (hi.symm.trans h) nofun⟩
  unfold ProgressOk
  rw [hq]
  exact ⟨hp, hm⟩

theorem coreOk_stateH1 : CoreOk stateH1.cfg stateH1.core := by
  refine ⟨fun ch => ?_, fun c => by cases c <;> decide +kernel, ?_, ?_⟩
  · cases ch <;> (unfold ChannelOk; decide +kernel)
  · unfold PacketBufferOk; decide +kernel
  · unfold LengthsOk; decide +kernel
theorem coreOk_stateH1T : CoreOk stateH1T.cfg stateH1T.core := by
  refine ⟨fun ch => ?_, fun c => by cases c <;> decide +kernel, ?_, ?_⟩
  · cases ch <;> (unfold ChannelOk; decide +kernel)
  · unfold PacketBufferOk; decide +kernel
  · unfold LengthsOk; decide +kernel

theorem witness_CopiedBytesStayTheOldest :
    Inv stateH1E ∧ CopiedOk stateH1E ∧ (∃ t, step stateH1E = .next t) ∧ stateH1E.inProgress.isSome = true :=
  ⟨inv_between (by decide) rfl coreOk_stateH1 rfl rfl ⟨⟨by decide, by decide, nofun⟩, rfl, nofun⟩, rfl, ⟨_, rfl⟩,
   rfl⟩
theorem witness_Publishing_read :
    Inv stateH1T ∧ CopiedOk stateH1T ∧ stateH1T.turns = [.t] ∧
    stateH1T.inProgress = some ⟨onT.cur, .readPublish .chIn 3 [1, 2, 3]⟩ :=
  ⟨inv_between (by decide) rfl coreOk_stateH1T rfl rfl ⟨⟨by decide, by decide, nofun⟩, rfl, nofun⟩, rfl, rfl, rfl⟩

/-- T to publish the byte 01 of CH.GETB in. -/
def getbT : State := { stateH1T with inProgress := some ⟨onT.cur, .getbPublish .chIn 1⟩ }

theorem witness_Publishing_getb : Inv getbT ∧ CopiedOk getbT ∧ getbT.turns = [.t] :=
  ⟨inv_between (by decide) rfl coreOk_stateH1T rfl rfl ⟨⟨by decide, by decide, nofun⟩, nofun⟩, rfl, rfl⟩

/-- T to publish the two bytes of a length prefix 00 `b`. -/
def prefixT (b : Byte) : State :=
  { ticking [(0, 0), (1, b)] true with
    turns := [.t], inProgress := some ⟨onT.cur, .tickHeaderPublish 2 [0, b]⟩ }

theorem witness_Publishing_header (b : Byte) (h : b = 0 ∨ b = 8 ∨ b = 9) :
    Inv (prefixT b) ∧ CopiedOk (prefixT b) ∧ (prefixT b).turns = [.t] := by
  refine ⟨inv_between (by decide : Config.tc1.wf = true) rfl (coreOk_header b h) rfl rfl
    ⟨rfl, rfl, ⟨?_, by decide, nofun⟩, rfl⟩, ?_, rfl⟩ <;> rcases h with rfl | rfl | rfl <;> rfl

/-- T to publish the three bytes in CH_IN as payload. -/
def payloadT (expected : Half) : State :=
  { partway buf3 expected with
    turns := [.t], inProgress := some ⟨onT.cur, .tickPayloadPublish 3 [1, 2, 3]⟩ }

theorem witness_Publishing_payload (e : Half) (h : e = 4 ∨ e = 5) :
    Inv (payloadT e) ∧ CopiedOk (payloadT e) ∧ (payloadT e).turns = [.t] := by
  refine ⟨inv_between (by decide : Config.tc1.wf = true) rfl (coreOk_partway e (.inr h)) rfl rfl
    ⟨⟨?_, by decide, nofun⟩, rfl, ?_, rfl, ?_⟩, ?_, rfl⟩ <;> rcases h with rfl | rfl <;> first | rfl | decide

end Sys2Proof.Tests
end

section
/-! The scope rules (00_scope.md): which configurations describe a CORE (R7, R8) and what one step runs (R11). -/

namespace Sys2Proof

/-! ### The constraints of a configuration (R7) -/

/-- The capacity check by the base-2 logarithm is the rule's "power of two, at least 2". -/
theorem capacityOk_iff {n : Nat} : capacityOk n = true ↔ ∃ k, 1 ≤ k ∧ n = 2 ^ k := by
  simp only [capacityOk, Bool.and_eq_true, decide_eq_true_eq]
  constructor
  · rintro ⟨hn, hpow⟩
    exact ⟨n.log2, (Nat.le_log2 (by omega)).2 (by simpa using hn), hpow.symm⟩
  · rintro ⟨k, hk, rfl⟩
    exact ⟨Nat.pow_le_pow_right (n := 2) (by decide) hk, by rw [Nat.log2_two_pow]⟩

theorem Config.payloadOk_iff {c : Config} : c.payloadOk = true ↔ 1 ≤ c.maxPayload ∧ c.maxPayload ≤ 65535 := by
  simp [Config.payloadOk]

theorem Config.captureOk_iff {c : Config} : c.captureOk = true ↔ c.metaLen + 24 ≤ c.minCaptureLen := by
  simp [Config.captureOk]

theorem Config.widthOk_iff {c : Config} : c.widthOk = true ↔ 1 ≤ c.wCnt := by
  simp [Config.widthOk]

theorem Config.offsetsOk_iff {c : Config} :
    c.offsetsOk = true ↔ (∀ f ∈ c.headerFields, f.1 + f.2 ≤ 24) ∧ c.headerFields.Pairwise apart := by
  simp only [Config.offsetsOk, Bool.and_eq_true, decide_eq_true_eq]

/-- The configuration check, constraint by constraint in the order of R7's table. -/
theorem Config.wf_iff {c : Config} :
    c.wf = true ↔
      (∃ k, 1 ≤ k ∧ c.nIn = 2 ^ k) ∧ (∃ k, 1 ≤ k ∧ c.nOut = 2 ^ k) ∧
        1 ≤ c.maxPayload ∧ c.maxPayload ≤ 65535 ∧ c.metaLen + 24 ≤ c.minCaptureLen ∧ 1 ≤ c.wCnt ∧
        (∀ f ∈ c.headerFields, f.1 + f.2 ≤ 24) ∧ c.headerFields.Pairwise apart := by
  simp only [Config.wf, Bool.and_eq_true, capacityOk_iff, payloadOk_iff, captureOk_iff, widthOk_iff,
    offsetsOk_iff, and_assoc]

end Sys2Proof

namespace Sys2Proof.Machine

/-! ### What every operation asks at its gate -/

/-- The kind of access an operation presents to `gate`. SYS.INIT, which has the gate `gateInit` of its own, is
bound to port T. `exec_of_gate` ties it to the operations. -/
def accessOf : Instr → Access
  | .sysInit | .chInit _ | .frmBuild | .txSend _ => .tickPort
  | .txDone => .eventPort
  | .chAvail _ | .frmParse _ | .cntRead _ | .cntReset => .anyPort
  | .chRead ch _ | .chGetb ch => .consume ch
  | .chWrite ch _ | .chPutb ch _ => .produce ch
  | .rxCapture _ => .capture
  | .raTick => .tick

/-- The gate of an operation. -/
def gateOf (i : Instr) (s : State) : Option Refusal :=
  match i with
  | .sysInit => gateInit s
  | i => gate s (accessOf i)

/-- What the gate of an operation refuses, the operation refuses, whatever else it would do: each operation asks
its gate before anything else. -/
theorem exec_of_gate {i : Instr} {s : State} {r : Refusal} (h : gateOf i s = some r) :
    exec i s = .refused r := by
  cases i
  all_goals
    simp only [gateOf, accessOf] at h
    simp only [exec, execSysInit, execChInit, execChAvail, execChRead, execChWrite, execChGetb, execChPutb,
      execFrmBuild, execFrmParse, execRxCapture, execRaTick, execTxSend, execTxDone, execCntRead, execCntReset, h]

/-! ### A configuration that breaks a constraint (R8) -/

theorem gate_of_broken {s : State} (h : s.cfg.wf = false) (a : Access) :
    gate s a = some .invalidConfiguration := if_pos h

theorem gateInit_of_broken {s : State} (h : s.cfg.wf = false) :
    gateInit s = some .invalidConfiguration := if_pos h

theorem gateOf_of_broken {s : State} (h : s.cfg.wf = false) (i : Instr) :
    gateOf i s = some .invalidConfiguration := by
  cases i with
  | sysInit => exact gateInit_of_broken h
  | _ => exact gate_of_broken h _

theorem microStep_of_broken {s : State} (h : s.cfg.wf = false) (m : Micro) :
    microStep m s = .refused .invalidConfiguration := if_pos h

/-! ### The command a step issues (R11) -/

/-- With a command waiting on port `p`, issuing takes it off the port and makes its inputs current. -/
theorem issueFrom_cons {p : Port} {s : State} {c : Command} {cs : List Command}
    (h : (s.portIn p).cmds = c :: cs) :
    issueFrom p s = .command c.cw ((s.setPortIn p ⟨cs, (s.portIn p).din⟩).present p c) := by
  simp only [issueFrom, h]

/-- On a port's turn the step issues from that port, unless an operation in progress on port T goes on. -/
theorem fetch_turn {s : State} {p : Port} {ts : List Port} (ht : s.turns = p :: ts)
    (hp : p = .t → s.inProgress = none) : fetch s = issueFrom p { s with turns := ts, tx := none } := by
  cases p with
  | e => simp only [fetch, ht, State.quiet]
  | t => simp only [fetch, ht, hp rfl, State.quiet]

theorem runWord_ok {cw : Word} {i : Instr} (h : decode cw = .ok i) (s : State) : runWord cw s = exec i s := by
  simp only [runWord, h]

theorem runWord_error {cw : Word} {e : IllegalWord} (h : decode cw = .error e) (s : State) :
    runWord cw s = .refused (.illegalCommandWord e) := by
  simp only [runWord, h]

/-- The step on a port's turn runs the word of the first command waiting there. -/
theorem step_turn_cons {s : State} {p : Port} {ts : List Port} {c : Command} {cs : List Command}
    (ht : s.turns = p :: ts) (hp : p = .t → s.inProgress = none) (hc : (s.portIn p).cmds = c :: cs) :
    step s = runWord c.cw
      ((({ s with turns := ts, tx := none } : State).setPortIn p ⟨cs, (s.portIn p).din⟩).present p c) := by
  have hin : ({ s with turns := ts, tx := none } : State).portIn p = s.portIn p := by cases p <;> rfl
  have hf := (fetch_turn ht hp).trans (issueFrom_cons (hin ▸ hc))
  simp only [step, hf, hin]

/-! ### The statements -/

/-- Settles O8: the constraints by `Config.wf_iff`, the operations at their gate, the micro-steps at theirs. -/
theorem brokenConfigurationIsRefused : Obligations.BrokenConfigurationIsRefused :=
  ⟨fun _ => Config.wf_iff, fun _ i h => exec_of_gate (gateOf_of_broken h i), fun _ m h => microStep_of_broken h m⟩

/-- Settles O6: the step runs the first waiting word, which decodes to its operation or is refused. -/
theorem stepRunsThePresentedCommand : Obligations.StepRunsThePresentedCommand := by
  intro s p ts c cs ht hp hc
  rw [step_turn_cons ht hp hc]
  exact ⟨fun _ hd => runWord_ok hd _, fun _ hd => runWord_error hd _⟩

end Sys2Proof.Machine
end

section
/-! What a channel holds (10_state.md R24, R36), and what moving an index does to it: the occupancy, the bytes held,
the channel invariant. -/

namespace Sys2Proof.Machine

/-! ### Occupancy and flags -/

/-- Both capacities of a CORE are at least 2 (00_scope.md R7). -/
theorem two_le_cap {cfg : Config} (h : cfg.wf = true) (ch : Chan) : 2 ≤ cfg.cap ch := by
  obtain ⟨⟨kin, hin, nin⟩, ⟨kout, hout, nout⟩, -⟩ := Config.wf_iff.1 h
  cases ch with
  | chIn => rw [Config.cap, nin]; exact Nat.le_self_pow (by omega) 2
  | chOut => rw [Config.cap, nout]; exact Nat.le_self_pow (by omega) 2

/-- The occupancy is a matter of the channel's own indices. -/
theorem occ_congr {k l : CoreState} {ch : Chan} (h : l.chan ch = k.chan ch) (cfg : Config) :
    occ cfg l ch = occ cfg k ch := by simp only [occ, h]

theorem held_congr {k l : CoreState} {ch : Chan} (h : l.chan ch = k.chan ch) (cfg : Config) :
    held cfg l ch = held cfg k ch := by simp only [held, occ, h]

/-- For legal indices the occupancy of the ring is the integer difference reduced modulo the capacity. -/
theorem ringOcc_eq_emod {n h t : Nat} (ht : t < n) : (ringOcc n h t : Int) = ((h : Int) - t) % (n : Int) := by
  calc (ringOcc n h t : Int) = ((h + n - t : Nat) : Int) % n := Int.natCast_emod _ _
    _ = ((h : Int) - t + n) % n := by congr 1; omega
    _ = ((h : Int) - t) % n := Int.add_emod_right _ _

theorem occ_lt_cap {cfg : Config} {k : CoreState} {ch : Chan} (h : ChannelOk cfg k ch) : occ cfg k ch < cfg.cap ch :=
  ringOcc_lt (Nat.zero_lt_of_lt h.1)

/-- One slot stays reserved: what is held and what is free make up the rest. -/
theorem occ_add_free {cfg : Config} {k : CoreState} {ch : Chan} (h : ChannelOk cfg k ch) :
    occ cfg k ch + free cfg k ch = cfg.cap ch - 1 := by
  have := occ_lt_cap h
  unfold free; omega

theorem isEmpty_iff {cfg : Config} {k : CoreState} {ch : Chan} (h : ChannelOk cfg k ch) :
    isEmpty k ch = true ↔ occ cfg k ch = 0 := by
  obtain ⟨hhead, htail, -⟩ := h
  simp only [isEmpty, decide_eq_true_eq, occ, ringOcc_eq hhead htail]
  split <;> omega

/-- Full means that the next `head` would meet `tail`: no place is free. -/
theorem isFull_iff {cfg : Config} {k : CoreState} {ch : Chan} (h : ChannelOk cfg k ch) (hcap : 2 ≤ cfg.cap ch) :
    isFull cfg k ch = true ↔ free cfg k ch = 0 := by
  obtain ⟨hhead, htail, -⟩ := h
  simp only [isFull, decide_eq_true_eq, free, occ, ringOcc_eq hhead htail]
  rcases Nat.lt_or_ge ((k.chan ch).head + 1) (cfg.cap ch) with hlt | hge
  · rw [Nat.mod_eq_of_lt hlt]
    split <;> omega
  · rw [show (k.chan ch).head + 1 = cfg.cap ch by omega, Nat.mod_self]
    split <;> omega

/-! ### The bytes held -/

theorem ChannelOk.congr {cfg : Config} {k l : CoreState} {ch : Chan} (h : ChannelOk cfg k ch)
    (hl : l.chan ch = k.chan ch) : ChannelOk cfg l ch := by
  simpa only [ChannelOk, held_congr hl cfg, hl] using h

theorem occ_readPublish {cfg : Config} {k : CoreState} {ch : Chan} {n : Nat} (h : ChannelOk cfg k ch)
    (hn : n ≤ occ cfg k ch) : occ cfg (readPublish cfg k ch n) ch = occ cfg k ch - n := by
  simpa [occ] using ringOcc_tail h.1 h.2.1 hn

/-- A read gives up the oldest bytes. -/
theorem held_readPublish {cfg : Config} {k : CoreState} {ch : Chan} {n : Nat} (h : ChannelOk cfg k ch)
    (hn : n ≤ occ cfg k ch) : held cfg (readPublish cfg k ch n) ch = (held cfg k ch).drop n := by
  apply List.ext_getElem
  · simp [occ_readPublish h hn]
  · intro i _ _
    simp [held, Nat.mod_add_mod, Nat.add_assoc]

theorem occ_writeStore {cfg : Config} {k : CoreState} {ch : Chan} {bs : List Byte} (h : ChannelOk cfg k ch)
    (hbs : bs.length ≤ free cfg k ch) : occ cfg (writeStore cfg k ch bs) ch = occ cfg k ch + bs.length := by
  have hroom := occ_add_free h
  have hlt := occ_lt_cap h
  have hsum : ringOcc (cfg.cap ch) (k.chan ch).head (k.chan ch).tail + bs.length < cfg.cap ch := by
    change occ cfg k ch + _ < _
    omega
  simpa [occ] using ringOcc_head h.1 h.2.1 hsum

/-- Position `i` places after `tail` is position `i - occ` places after `head`. -/
theorem tail_add_eq_head_add {cfg : Config} {k : CoreState} {ch : Chan} (h : ChannelOk cfg k ch) {i : Nat}
    (hi : occ cfg k ch ≤ i) :
    ((k.chan ch).tail + i) % cfg.cap ch = ((k.chan ch).head + (i - occ cfg k ch)) % cfg.cap ch := by
  have hocc : ((k.chan ch).tail + occ cfg k ch) % cfg.cap ch = (k.chan ch).head := tail_add_occ h.1 h.2.1
  rw [← hocc, Nat.mod_add_mod]
  congr 1; omega

/-- Positions less than a capacity apart are different. -/
theorem add_mod_ne {n p i j : Nat} (hij : i < j) (hj : j < n) : (p + i) % n ≠ (p + j) % n := by
  intro he
  have hdvd : n ∣ (p + j) - (p + i) := (Nat.modEq_iff_dvd' (by omega)).1 he
  have := Nat.le_of_dvd (by omega) hdvd
  omega

/-- Accepted bytes stand behind those held before. -/
theorem held_writeStore {cfg : Config} {k : CoreState} {ch : Chan} {bs : List Byte} (h : ChannelOk cfg k ch)
    (hbs : bs.length ≤ free cfg k ch) :
    held cfg (writeStore cfg k ch bs) ch = held cfg k ch ++ bs.map some := by
  have hroom := occ_add_free h
  have hlt := occ_lt_cap h
  apply List.ext_getElem
  · simp [occ_writeStore h hbs]
  · intro i hi _
    simp only [held_length, occ_writeStore h hbs] at hi
    simp only [held, List.getElem_map, List.getElem_range, writeStore_chan_self]
    rcases Nat.lt_or_ge i (occ cfg k ch) with hold | hnew
    · rw [List.getElem_append_left (by simpa using hold), Memory.read_storeRing_of_ne]
      · simp
      · intro j hj
        rw [show (k.chan ch).head + j = (k.chan ch).head + (occ cfg k ch + j - occ cfg k ch) by omega,
          ← tail_add_eq_head_add h (by omega)]
        exact add_mod_ne (by omega) (by omega)
    · rw [List.getElem_append_right (by simpa using hnew), tail_add_eq_head_add h hnew,
        Memory.read_storeRing (x := bs[i - occ cfg k ch]) (by omega) (List.getElem?_eq_getElem (by omega))]
      simp

/-! ### The channel invariant -/

/-- An empty channel at the index 0, as SYS.INIT and CH.INIT leave it. -/
theorem channelOk_empty {cfg : Config} {k : CoreState} {ch : Chan} (hcap : 2 ≤ cfg.cap ch)
    (h : k.chan ch = ⟨[], 0, 0⟩) : ChannelOk cfg k ch := by
  have hpos : 0 < cfg.cap ch := by omega
  simp [ChannelOk, Memory.wf, held, occ, ringOcc, h, hpos]

theorem ChannelOk.readPublish {cfg : Config} {k : CoreState} {ch : Chan} {n : Nat} (h : ChannelOk cfg k ch)
    (hn : n ≤ occ cfg k ch) : ChannelOk cfg (readPublish cfg k ch n) ch := by
  have hheld := held_readPublish h hn
  obtain ⟨hhead, htail, hwf, hbound, hwritten⟩ := h
  refine ⟨by simpa using hhead, by simpa using Nat.mod_lt _ (Nat.zero_lt_of_lt hhead), by simpa using hwf,
    by simpa using hbound, fun b hb => hwritten b ?_⟩
  exact List.mem_of_mem_drop (hheld ▸ hb)

theorem ChannelOk.writeStore {cfg : Config} {k : CoreState} {ch : Chan} {bs : List Byte} (h : ChannelOk cfg k ch)
    (hbs : bs.length ≤ free cfg k ch) : ChannelOk cfg (writeStore cfg k ch bs) ch := by
  have hheld := held_writeStore h hbs
  obtain ⟨hhead, htail, hwf, hbound, hwritten⟩ := h
  have hpos := Nat.zero_lt_of_lt hhead
  refine ⟨by simpa using Nat.mod_lt _ hpos, by simpa using htail, ?_, ?_, fun b hb => ?_⟩
  · rw [writeStore_chan_self]; exact Memory.storeRing_wf _ hwf _ _
  · rw [writeStore_chan_self]; exact Memory.storeRing_bound hpos hbound _ _
  · rw [hheld, List.mem_append, List.mem_map] at hb
    rcases hb with hold | ⟨_, -, rfl⟩
    · exact hwritten b hold
    · rfl

/-- Settles O16: occupancy and flags are the ring arithmetic of the legal indices. -/
theorem occupancyAndFlags : Obligations.OccupancyAndFlags := by
  intro cfg k ch hcap hok
  have hlt := occ_lt_cap hok
  exact ⟨ringOcc_eq_emod hok.2.1, by omega, occ_add_free hok, isEmpty_iff hok, isFull_iff hok hcap,
    held_length cfg k ch⟩

end Sys2Proof.Machine
end

section
/-! What an operation does, said once: one constructor per way in which an operation answers a next state. -/

namespace Sys2Proof.Machine

/-- The state with `n` bytes of the current port's `din` taken. -/
abbrev State.afterOperands (s : State) (n : Nat) : State :=
  s.setPortIn s.cur.port ⟨(s.portIn s.cur.port).cmds, (s.portIn s.cur.port).din.drop n⟩

theorem takeDin_some {n : Nat} {s u : State} {data : List Byte} (h : takeDin n s = some (data, u)) :
    Supplied s n ∧ data = s.operandBytes n ∧ u = s.afterOperands n := by
  by_cases hs : Supplied s n
  · rw [takeDin_eq_some hs] at h
    cases h
    exact ⟨hs, rfl, rfl⟩
  · rw [takeDin_eq_none hs] at h
    cases h

/-- The ways in which an operation issued in `s` answers a next state, with that state; `exec_next` ties it to
`exec`. The reads, the tick and TX.SEND either run whole or stop after their first micro-step. -/
inductive Ran (s : State) : Instr → State → Prop where
  | sysInit : gateInit s = none → s.confIn.wf = true →
      Ran s .sysInit ((s.configure s.confIn).finish (freeResult s.cur.ticket))
  | chInit (ch : Chan) : gate s .tickPort = none →
      Ran s (.chInit ch) ((s.setCore (s.core.setChan ch ⟨[], 0, 0⟩)).finish (freeResult s.cur.ticket))
  | chAvail (ch : Chan) : gate s .anyPort = none →
      Ran s (.chAvail ch)
        (s.finish { freeResult s.cur.ticket with rcount := rcountOf s.cur.ticket (occ s.cfg s.core ch) })
  | chReadStart (ch : Chan) (max : Half) : gate s (.consume ch) = none → s.stepwise = true →
      Ran s (.chRead ch max)
        ((s.noteUse (.consume ch)).pause (.readCopy ch (readSnap s.cfg s.core ch max.toNat)))
  | chRead (ch : Chan) (max : Half) : gate s (.consume ch) = none → s.stepwise = false →
      Ran s (.chRead ch max)
        (endRead ch (readSnap s.cfg s.core ch max.toNat)
          (readCopy s.cfg s.cur.ticket s.core ch (readSnap s.cfg s.core ch max.toNat)) (s.noteUse (.consume ch)))
  | chWrite (ch : Chan) (len : Half) : gate s (.produce ch) = none → Supplied s len.toNat →
      Ran s (.chWrite ch len)
        ((((s.afterOperands len.toNat).noteUse (.produce ch)).setCore
          (writeChan s.cfg s.core ch (s.operandBytes len.toNat)).2).finish
            { freeResult s.cur.ticket with
              rcount := rcountOf s.cur.ticket (writeChan s.cfg s.core ch (s.operandBytes len.toNat)).1 })
  | chGetbEmpty (ch : Chan) : gate s (.consume ch) = none → isEmpty s.core ch = true →
      Ran s (.chGetb ch) ((s.noteUse (.consume ch)).finish { freeResult s.cur.ticket with rok := false })
  | chGetbStart (ch : Chan) : gate s (.consume ch) = none → isEmpty s.core ch = false → s.stepwise = true →
      Ran s (.chGetb ch) ((s.noteUse (.consume ch)).pause (.getbCopy ch))
  | chGetb (ch : Chan) : gate s (.consume ch) = none → isEmpty s.core ch = false → s.stepwise = false →
      Ran s (.chGetb ch) (endGetb ch (getbByte s.cfg s.cur.ticket s.core ch) (s.noteUse (.consume ch)))
  | chPutbFull (ch : Chan) (b : Byte) : gate s (.produce ch) = none → isFull s.cfg s.core ch = true →
      Ran s (.chPutb ch b)
        (((s.noteUse (.produce ch)).setCore (s.core.bump s.cfg (ovfOf ch) 1)).finish
          { freeResult s.cur.ticket with rok := false })
  | chPutb (ch : Chan) (b : Byte) : gate s (.produce ch) = none → isFull s.cfg s.core ch = false →
      Ran s (.chPutb ch b)
        (((s.noteUse (.produce ch)).setCore (writeStore s.cfg s.core ch [b])).finish
          { freeResult s.cur.ticket with rok := true })
  | frmBuild : gate s .tickPort = none →
      Ran s .frmBuild
        ((s.setCore s.core.advanceSeq).finish
          { freeResult s.cur.ticket with dout := buildHeader s.cfg s.core s.core.seq })
  | frmParse (count : Half) : gate s .anyPort = none → Supplied s (bodyLen s.cfg count) →
      Ran s (.frmParse count)
        ((s.afterOperands (bodyLen s.cfg count)).finish
          { freeResult s.cur.ticket with
            parse := parseFields s.cfg s.cur (s.operandBytes (bodyLen s.cfg count)) })
  | rxCaptureReject (count : Half) (g : Stage) : gate s .capture = none → Supplied s (bodyLen s.cfg count) →
      rejectedAt s.cfg s.core s.cur count (s.operandBytes (bodyLen s.cfg count)) = some g →
      Ran s (.rxCapture count)
        ((((s.afterOperands (bodyLen s.cfg count)).noteUse .capture).setCore (s.core.bump s.cfg .rxDrop 1)).finish
          { freeResult s.cur.ticket with rok := false, rcount := 0 })
  | rxCapture (count : Half) (data : List Byte) : gate s .capture = none → Supplied s (bodyLen s.cfg count) →
      rejectedAt s.cfg s.core s.cur count (s.operandBytes (bodyLen s.cfg count)) = none →
      data = captureData (parseFields s.cfg s.cur (s.operandBytes (bodyLen s.cfg count))) →
      Ran s (.rxCapture count)
        ((((s.afterOperands (bodyLen s.cfg count)).noteUse .capture).setCore
          ((writeChan s.cfg s.core .chOut data).2.bump s.cfg .rxOk 1)).finish
            { freeResult s.cur.ticket with
              rok := true, rcount := rcountOf s.cur.ticket (writeChan s.cfg s.core .chOut data).1 })
  | raTickStart : gate s .tick = none → s.stepwise = true → Ran s .raTick (tickFirst (s.noteUse .tick))
  | raTickHeader {t : State} : gate s .tick = none → s.stepwise = false → s.core.rsState = .waitHeader →
      tickHeader (s.noteUse .tick) = .next t → Ran s .raTick t
  | raTickPayload {t : State} : gate s .tick = none → s.stepwise = false → s.core.rsState = .accumulate →
      tickAccumulate (s.noteUse .tick) = .next t → Ran s .raTick t
  | txSendBad (len : Half) : gate s .tickPort = none → Supplied s len.toNat → badLength s.cfg len.toNat = true →
      Ran s (.txSend len)
        (((s.afterOperands len.toNat).setCore (s.core.bump s.cfg .txErr 1)).finish
          { freeResult s.cur.ticket with rok := false })
  | txSendStart (len : Half) (a : SendResult × State) : gate s .tickPort = none → Supplied s len.toNat →
      badLength s.cfg len.toNat = false → s.stepwise = true →
      a = sendAttempt (s.operandBytes len.toNat) (s.afterOperands len.toNat) →
      Ran s (.txSend len) (a.2.pause (.sendCount a.1))
  | txSend (len : Half) (a : SendResult × State) : gate s .tickPort = none → Supplied s len.toNat →
      badLength s.cfg len.toNat = false → s.stepwise = false →
      a = sendAttempt (s.operandBytes len.toNat) (s.afterOperands len.toNat) →
      Ran s (.txSend len) (endSend a.1 a.2)
  | txDone : gate s .eventPort = none →
      Ran s .txDone ((s.setCore { s.core with txReady := true }).finish (freeResult s.cur.ticket))
  | cntRead (index : BitVec 3) (c : Counter) : gate s .anyPort = none → counterOf index = some c →
      Ran s (.cntRead index)
        (s.finish { freeResult s.cur.ticket with rcount := rcountOf s.cur.ticket (s.core.cnt.get c) })
  | cntReset : gate s .anyPort = none →
      Ran s .cntReset
        ((s.setCore { s.core with cnt := ⟨0, 0, 0, 0, 0, 0⟩ }).finish (freeResult s.cur.ticket))

/-- An operation that answers a next state passed its gate. -/
theorem gateOf_eq_none {i : Instr} {s t : State} (h : exec i s = .next t) : gateOf i s = none := by
  cases hg : gateOf i s with
  | none => rfl
  | some r => rw [exec_of_gate hg] at h; cases h

/-- The inversion of `exec`: an operation that answers a next state did one of the things of `Ran`. -/
theorem exec_next {i : Instr} {s t : State} (h : exec i s = .next t) : Ran s i t := by
  have hg := gateOf_eq_none h
  cases i <;> simp only [gateOf, accessOf] at hg <;>
    simp only [exec, execSysInit, execChInit, execChAvail, execChRead, execChWrite, execChGetb, execChPutb,
      execFrmBuild, execFrmParse, execRxCapture, execRaTick, execTxSend, execTxDone, execCntRead, execCntReset,
      hg] at h
  case sysInit =>
    split at h <;> cases h
    exact .sysInit hg (Bool.of_not_eq_false ‹_›)
  case chInit ch => cases h; exact .chInit ch hg
  case chAvail ch => cases h; exact .chAvail ch hg
  case chRead ch max =>
    split at h <;> cases h
    · exact .chReadStart ch max hg ‹_›
    · exact .chRead ch max hg (Bool.of_not_eq_true ‹_›)
  case chWrite ch len =>
    split at h <;> cases h
    obtain ⟨hs, rfl, rfl⟩ := takeDin_some ‹_›
    exact .chWrite ch len hg hs
  case chGetb ch =>
    split at h
    next hempty => cases h; exact .chGetbEmpty ch hg hempty
    next hempty =>
      have hsome := Bool.of_not_eq_true hempty
      split at h <;> cases h
      · exact .chGetbStart ch hg hsome ‹_›
      · exact .chGetb ch hg hsome (Bool.of_not_eq_true ‹_›)
  case chPutb ch b =>
    split at h <;> cases h
    · exact .chPutbFull ch b hg ‹_›
    · exact .chPutb ch b hg (Bool.of_not_eq_true ‹_›)
  case frmBuild => cases h; exact .frmBuild hg
  case frmParse count =>
    split at h <;> cases h
    obtain ⟨hs, rfl, rfl⟩ := takeDin_some ‹_›
    exact .frmParse count hg hs
  case rxCapture count =>
    split at h
    · cases h
    · obtain ⟨hs, rfl, rfl⟩ := takeDin_some ‹_›
      split at h <;> cases h
      · exact .rxCaptureReject count _ hg hs ‹_›
      · exact .rxCapture count _ hg hs ‹_› rfl
  case raTick =>
    split at h
    next hstep => cases h; exact .raTickStart hg hstep
    next hstep =>
      have hwhole := Bool.of_not_eq_true hstep
      split at h
      · exact .raTickHeader hg hwhole ‹_› h
      · exact .raTickPayload hg hwhole ‹_› h
  case txSend len =>
    split at h
    · cases h
    · obtain ⟨hs, rfl, rfl⟩ := takeDin_some ‹_›
      split at h
      next hbad => cases h; exact .txSendBad len hg hs hbad
      next hbad =>
        have hgood := Bool.of_not_eq_true hbad
        split at h <;> cases h
        · exact .txSendStart len _ hg hs hgood ‹_› rfl
        · exact .txSend len _ hg hs hgood (Bool.of_not_eq_true ‹_›) rfl
  case txDone => cases h; exact .txDone hg
  case cntRead index =>
    split at h <;> cases h
    exact .cntRead index _ hg ‹_›
  case cntReset => cases h; exact .cntReset hg

end Sys2Proof.Machine
end

section
/-! The parts of a tick (43_reassembler.md R151) and the moves of a step (00_scope.md R11), said once. -/

namespace Sys2Proof.Machine

/-! ### The parts of a tick -/

/-- The architectural state after `n` payload bytes `data` are read from CH_IN into `pkt_buf` (R151, R211);
`storePayload_ok` ties it to the model. -/
def CoreState.receive (cfg : Config) (k : CoreState) (n : Nat) (data : List Byte) : CoreState :=
  { readPublish cfg k .chIn n with
    pktBuf := Memory.storeRun k.pktBuf k.received.toNat (data.take n)
    received := k.received + BitVec.ofNat 16 n }

@[simp] theorem receive_chan (cfg : Config) (k : CoreState) (n : Nat) (data : List Byte) (ch : Chan) :
    (k.receive cfg n data).chan ch = (readPublish cfg k .chIn n).chan ch := by cases ch <;> rfl

@[simp] theorem receive_cnt (cfg : Config) (k : CoreState) (n : Nat) (data : List Byte) :
    (k.receive cfg n data).cnt = k.cnt := rfl

@[simp] theorem receive_txReady (cfg : Config) (k : CoreState) (n : Nat) (data : List Byte) :
    (k.receive cfg n data).txReady = k.txReady := rfl

@[simp] theorem receive_rsState (cfg : Config) (k : CoreState) (n : Nat) (data : List Byte) :
    (k.receive cfg n data).rsState = k.rsState := rfl

@[simp] theorem receive_expected (cfg : Config) (k : CoreState) (n : Nat) (data : List Byte) :
    (k.receive cfg n data).expected = k.expected := rfl

@[simp] theorem receive_received (cfg : Config) (k : CoreState) (n : Nat) (data : List Byte) :
    (k.receive cfg n data).received = k.received + BitVec.ofNat 16 n := rfl

@[simp] theorem receive_pktBuf (cfg : Config) (k : CoreState) (n : Nat) (data : List Byte) :
    (k.receive cfg n data).pktBuf = Memory.storeRun k.pktBuf k.received.toNat (data.take n) := rfl

@[simp] theorem receive_filterKey (cfg : Config) (k : CoreState) (n : Nat) (data : List Byte) :
    (k.receive cfg n data).filterKey = k.filterKey := rfl

@[simp] theorem receive_ownAddr (cfg : Config) (k : CoreState) (n : Nat) (data : List Byte) :
    (k.receive cfg n data).ownAddr = k.ownAddr := rfl

theorem storePayload_ok {n : Nat} {data : List Byte} {s u : State} (h : storePayload n data s = .ok u) :
    u = s.setCore (s.core.receive s.cfg n data) := by
  rcases storePayload_cases n data s with ⟨-, hok⟩ | ⟨-, -, herr⟩
  · rw [hok] at h; cases h; rfl
  · rw [herr] at h; cases h

/-- What the payload read of a tick can do, whole or as its publishing micro-step: store the bytes read, and go on
with a complete packet or end the tick. -/
theorem tickAccumulate_next {s t : State} (h : tickAccumulate s = .next t) :
    ∃ n data u, n = readSnap s.cfg s.core .chIn s.core.wanted ∧
      data = readCopy s.cfg s.cur.ticket s.core .chIn n ∧ u = s.setCore (s.core.receive s.cfg n data) ∧
      ((u.core.received = u.core.expected ∧ t = tickSend u) ∨
        (u.core.received ≠ u.core.expected ∧ t = endTick u)) := by
  unfold tickAccumulate at h
  simp only at h
  split at h <;> cases h
  have hu := storePayload_ok ‹_›
  refine ⟨_, _, _, rfl, rfl, hu, ?_⟩
  split
  next hfull => exact .inl ⟨hfull, rfl⟩
  next hpart => exact .inr ⟨hpart, rfl⟩

theorem tickTakePayload_next {n : Nat} {data : List Byte} {s t : State} (h : tickTakePayload n data s = .next t) :
    ∃ u, u = s.setCore (s.core.receive s.cfg n data) ∧
      ((u.core.received = u.core.expected ∧ t = u.pause .tickSend) ∨
        (u.core.received ≠ u.core.expected ∧ t = endTick u)) := by
  unfold tickTakePayload at h
  split at h <;> cases h
  refine ⟨_, storePayload_ok ‹_›, ?_⟩
  split
  next hfull => exact .inl ⟨hfull, rfl⟩
  next hpart => exact .inr ⟨hpart, rfl⟩

theorem readSnap_of_le {cfg : Config} {k : CoreState} {ch : Chan} {n : Nat} (h : n ≤ occ cfg k ch) :
    readSnap cfg k ch n = n := Nat.min_eq_left h

/-- What the header read of a tick can do: find fewer than two bytes, discard a bad length, or go on with the
payload. -/
theorem tickHeader_next {s t : State} (h : tickHeader s = .next t) :
    t = endTick s ∨
    (2 ≤ occ s.cfg s.core .chIn ∧ t = tickDiscard (s.setCore (readPublish s.cfg s.core .chIn 2))) ∨
    ∃ l, 2 ≤ occ s.cfg s.core .chIn ∧ badHeader s.cfg l = false ∧
      tickAccumulate (s.setCore ((readPublish s.cfg s.core .chIn 2).startPacket l)) = .next t := by
  unfold tickHeader at h
  split at h
  next => cases h; exact .inl rfl
  next hocc =>
    have htwo : 2 ≤ occ s.cfg s.core .chIn := by omega
    simp only [readSnap_of_le htwo] at h
    split at h
    next => cases h; exact .inr (.inl ⟨htwo, rfl⟩)
    next hgood => exact .inr (.inr ⟨_, htwo, Bool.of_not_eq_true hgood, h⟩)

/-! ### The moves of a step -/

/-- The step from `s` has begun: its turn is taken and the frame pulse of the step before is over. Nothing of the
CORE, its operation in progress or the uses of the run differs. -/
def Starts (s u : State) : Prop :=
  u.core = s.core ∧ u.cfg = s.cfg ∧ u.inProgress = s.inProgress ∧ u.initialised = s.initialised ∧
    u.runUse = s.runUse ∧ u.tx = none

/-- What a step that answers `t` did (`step_next`): nothing, the next micro-step, or an operation issued. -/
inductive StepCase (s t : State) : Prop where
  | idle : Starts s t → (∀ j, ¬ Issues s j) → StepCase s t
  | resume (q : InProgress) (u : State) : s.inProgress = some q → StepsOn s .t → Starts s u → u.cur = q.op →
      (∀ j, ¬ Issues s j) → microStep q.next u = .next t → StepCase s t
  | issue (p : Port) (c : Command) (cs : List Command) (i : Instr) (u : State) : StepsOn s p →
      (p = .t → s.inProgress = none) → (s.portIn p).cmds = c :: cs → Starts s u → u.cur.port = p →
      u.confIn = c.conf.getD s.cfg → (∀ j, Issues s j ↔ j = i) → Ran u i t → StepCase s t

theorem step_next {s t : State} (h : step s = .next t) : StepCase s t := by
  rcases fetch_cases s with ⟨u, hf, hcore, hcfg, hprog, hinit, huse, htx, -⟩ | ⟨ts, q, hturn, hq, hf⟩ |
    ⟨p, ts, c, cs, hturn, hfree, hcmd, hf⟩
  · have hno : ∀ j, ¬ Issues s j := by
      rintro j ⟨cw, v, hv, -⟩
      rw [hf] at hv; cases hv
    simp only [step, hf] at h
    cases h
    exact .idle ⟨hcore, hcfg, hprog, hinit, huse, htx⟩ hno
  · have hno : ∀ j, ¬ Issues s j := by
      rintro j ⟨cw, v, hv, -⟩
      rw [hf] at hv; cases hv
    simp only [step, hf] at h
    refine .resume q _ hq (by simp [StepsOn, hturn]) ?_ ?_ hno h
    · exact ⟨rfl, rfl, rfl, rfl, rfl, rfl⟩
    · rfl
  · simp only [step, hf, runWord] at h
    split at h
    · cases h
    next i hdec =>
      have huniq : ∀ j, Issues s j ↔ j = i := by
        intro j
        constructor
        · rintro ⟨cw, v, hv, hj⟩
          rw [hf] at hv; cases hv
          rw [hdec] at hj; cases hj; rfl
        · rintro rfl
          exact ⟨_, _, hf, hdec⟩
      exact .issue p c cs i _ (by simp [StepsOn, hturn]) hfree hcmd (by simp [Starts]) rfl (by simp) huniq
        (exec_next h)

theorem StepsOn.port_eq {s : State} {p q : Port} (hp : StepsOn s p) (hq : StepsOn s q) : p = q :=
  Option.some.inj (hp.symm.trans hq)

end Sys2Proof.Machine
end

section
/-! What the two agents leave to each other (10_state.md R40): the frame of an operation on port E, and the frame of
an operation, whole or in micro-steps, on port T. -/

namespace Sys2Proof.Machine

/-! ### The port a passed gate implies -/

theorem port_of_gate_tickPort {s : State} (h : gate s .tickPort = none) : s.cur.port = .t :=
  portRefusal_tickPort.1 (gate_eq_none.1 h).2.2

theorem port_of_gate_eventPort {s : State} (h : gate s .eventPort = none) : s.cur.port = .e :=
  portRefusal_eventPort.1 (gate_eq_none.1 h).2.2

theorem port_of_gate_tick {s : State} (h : gate s .tick = none) : s.cur.port = .t :=
  (portRefusal_tick.1 (gate_eq_none.1 h).2.2).1

theorem port_of_gate_capture {s : State} (h : gate s .capture = none) : s.cur.port = .e :=
  (portRefusal_capture.1 (gate_eq_none.1 h).2.2).1

theorem port_of_gate_produce {s : State} {ch : Chan} (h : gate s (.produce ch) = none) : s.cur.port = .e := by
  obtain ⟨-, -, hp⟩ := gate_eq_none.1 h
  cases ch with
  | chIn => exact portRefusal_produce_in.1 hp
  | chOut => exact (portRefusal_produce_out.1 hp).1

/-- Only CH_OUT has a consumer on port E. -/
theorem chan_of_gate_consume {s : State} {ch : Chan} (h : gate s (.consume ch) = none) (hp : s.cur.port = .e) :
    ch = .chOut := by
  obtain ⟨-, -, hg⟩ := gate_eq_none.1 h
  cases ch with
  | chIn => rw [(portRefusal_consume_in.1 hg).1] at hp; cases hp
  | chOut => rfl

/-- An operation that stops after its first micro-step is on port T. -/
theorem port_of_stepwise {s : State} (h : s.stepwise = true) : s.cur.port = .t := by
  simp only [State.stepwise, Bool.and_eq_true, decide_eq_true_eq] at h
  exact h.2

/-! ### Counters -/

theorem sameCountersBut_of_cnt_eq {k l : CoreState} (h : l.cnt = k.cnt) (cs : List Counter) :
    SameCountersBut cs k l := fun c _ => by rw [h]

theorem sameCountersBut_bump {cs : List Counter} {c : Counter} (hc : c ∈ cs) (cfg : Config) (k : CoreState)
    (v : Nat) : SameCountersBut cs k (k.bump cfg c v) := fun d hd => by
  rw [CoreState.bump_cnt, Counters.get_set_of_ne (by rintro rfl; exact hd hc)]

theorem SameCountersBut.trans {cs : List Counter} {k l m : CoreState} (h : SameCountersBut cs k l)
    (h' : SameCountersBut cs l m) : SameCountersBut cs k m := fun c hc => (h' c hc).trans (h c hc)

theorem sameCountersBut_writeChan {cs : List Counter} {ch : Chan} (hc : ovfOf ch ∈ cs) (cfg : Config)
    (k : CoreState) (data : List Byte) : SameCountersBut cs k (writeChan cfg k ch data).2 := by
  rcases (writeChan_cases cfg k ch data).2 with ⟨-, h⟩ | ⟨-, h⟩ <;> rw [h]
  · exact sameCountersBut_of_cnt_eq (by simp) cs
  · exact (sameCountersBut_of_cnt_eq (writeStore_cnt ..) cs).trans (sameCountersBut_bump hc _ _ _)

/-! ### The frame of an operation on port E -/

theorem sameOffChannels_bump (cfg : Config) (k : CoreState) (c : Counter) (v : Nat) :
    SameOffChannels k (k.bump cfg c v) := ⟨rfl, rfl, rfl, rfl, rfl, rfl, rfl, rfl⟩

theorem sameOffChannels_writeChan (cfg : Config) (k : CoreState) (ch : Chan) (data : List Byte) :
    SameOffChannels k (writeChan cfg k ch data).2 := by
  rcases (writeChan_cases cfg k ch data).2 with ⟨-, h⟩ | ⟨-, h⟩ <;> rw [h] <;>
    exact writeStore_sameOffChannels ..

/-- A write moves no `tail`. -/
theorem writeStore_tail (cfg : Config) (k : CoreState) (ch c : Chan) (bs : List Byte) :
    ((writeStore cfg k ch bs).chan c).tail = (k.chan c).tail := by
  by_cases h : c = ch
  · subst h; simp
  · rw [writeStore_chan_of_ne h]

theorem writeChan_tail (cfg : Config) (k : CoreState) (ch c : Chan) (data : List Byte) :
    ((writeChan cfg k ch data).2.chan c).tail = (k.chan c).tail := by
  rcases (writeChan_cases cfg k ch data).2 with ⟨-, h⟩ | ⟨-, h⟩ <;> simp [h, writeStore_tail]

/-- The counters of agent E (10_state.md R40). -/
abbrev eventCounters : List Counter := [.rxOk, .rxDrop, .ovfIn, .ovfOut]

theorem ovfOf_mem_eventCounters (ch : Chan) : ovfOf ch ∈ eventCounters := by cases ch <;> decide

/-- What the operation `i` on port E leaves as it was. -/
structure EventKeeps (i : Instr) (s t : State) : Prop where
  cfg : t.cfg = s.cfg
  initialised : t.initialised = s.initialised
  inProgress : t.inProgress = s.inProgress
  tx : t.tx = s.tx
  offChannels : SameOffChannels { s.core with txReady := t.core.txReady } t.core
  flag : t.core.txReady = s.core.txReady ∨ (t.core.txReady = true ∧ i = .txDone)
  tail : ∀ ch, (t.core.chan ch).tail = (s.core.chan ch).tail ∨
    (ch = .chOut ∧ (i = .chGetb ch ∨ ∃ max, i = .chRead ch max))
  counters : i = .cntReset ∨ SameCountersBut eventCounters s.core t.core

/-- The end of the operation changes nothing of this. -/
theorem EventKeeps.finish {i : Instr} {s u : State} {r : PortResult} (h : EventKeeps i s u) (hp : s.cur.port = .e)
    (hcur : u.cur = s.cur := by simp) : EventKeeps i s (u.finish r) where
  cfg := by simp [h.cfg]
  initialised := by simp [h.initialised]
  inProgress := by simp [State.finish_inProgress, hcur, hp, h.inProgress]
  tx := by simp [h.tx]
  offChannels := by simpa using h.offChannels
  flag := by simpa using h.flag
  tail := by simpa using h.tail
  counters := by simpa using h.counters

/-- An operation on port E that leaves the architectural state as it was. -/
theorem eventKeeps_of_core_eq {i : Instr} {s u : State} (hcore : u.core = s.core)
    (hcfg : u.cfg = s.cfg := by simp) (hinit : u.initialised = s.initialised := by simp)
    (hprog : u.inProgress = s.inProgress := by simp) (htx : u.tx = s.tx := by simp) : EventKeeps i s u where
  cfg := hcfg
  initialised := hinit
  inProgress := hprog
  tx := htx
  offChannels := by simp [SameOffChannels, hcore]
  flag := .inl (by rw [hcore])
  tail _ := .inl (by rw [hcore])
  counters := .inr (sameCountersBut_of_cnt_eq (by rw [hcore]) _)

/-- An operation on port E that touches the channels and the counters of agent E only, and moves no `tail`. -/
theorem eventKeeps_of_produce {i : Instr} {s u : State} (hoff : SameOffChannels s.core u.core)
    (htail : ∀ ch, (u.core.chan ch).tail = (s.core.chan ch).tail)
    (hcnt : SameCountersBut eventCounters s.core u.core)
    (hcfg : u.cfg = s.cfg := by simp) (hinit : u.initialised = s.initialised := by simp)
    (hprog : u.inProgress = s.inProgress := by simp) (htx : u.tx = s.tx := by simp) : EventKeeps i s u where
  cfg := hcfg
  initialised := hinit
  inProgress := hprog
  tx := htx
  offChannels := ⟨hoff.1, rfl, hoff.2.2⟩
  flag := .inl hoff.2.1
  tail ch := .inl (htail ch)
  counters := .inr hcnt

/-- A read on port E: CH_OUT gives up bytes. -/
theorem eventKeeps_of_consume {i : Instr} {s u : State} {n : Nat}
    (hi : i = .chGetb .chOut ∨ ∃ max, i = .chRead .chOut max)
    (hcore : u.core = readPublish s.cfg s.core .chOut n)
    (hcfg : u.cfg = s.cfg := by simp) (hinit : u.initialised = s.initialised := by simp)
    (hprog : u.inProgress = s.inProgress := by simp) (htx : u.tx = s.tx := by simp) : EventKeeps i s u where
  cfg := hcfg
  initialised := hinit
  inProgress := hprog
  tx := htx
  offChannels := by simp [SameOffChannels, hcore, readPublish]
  flag := .inl (by simp [hcore, readPublish])
  tail ch := by
    cases ch with
    | chIn => exact .inl (by rw [hcore, readPublish_chan_of_ne (by decide)])
    | chOut => exact .inr ⟨rfl, hi⟩
  counters := .inr (sameCountersBut_of_cnt_eq (by simp [hcore]) _)

theorem Ran.eventKeeps {i : Instr} {s t : State} (h : Ran s i t) (hp : s.cur.port = .e) : EventKeeps i s t := by
  have hnt : s.cur.port ≠ .t := by simp [hp]
  cases h with
  | sysInit hg => exact absurd (gateInit_eq_none.1 hg).2 hnt
  | chInit _ hg | frmBuild hg | txSendBad _ hg | txSendStart _ _ hg | txSend _ _ hg =>
    exact absurd (port_of_gate_tickPort hg) hnt
  | raTickStart hg | raTickHeader hg | raTickPayload hg => exact absurd (port_of_gate_tick hg) hnt
  | chReadStart _ _ _ hw | chGetbStart _ _ _ hw => exact absurd (port_of_stepwise hw) hnt
  | chAvail | chGetbEmpty | frmParse | cntRead => exact (eventKeeps_of_core_eq (by simp)).finish hp
  | chRead ch max hg =>
    obtain rfl := chan_of_gate_consume hg hp
    exact (eventKeeps_of_consume (.inr ⟨max, rfl⟩) rfl).finish hp
  | chGetb ch hg =>
    obtain rfl := chan_of_gate_consume hg hp
    exact (eventKeeps_of_consume (.inl rfl) rfl).finish hp
  | chWrite ch len =>
    refine (eventKeeps_of_produce ?_ ?_ ?_).finish hp
    · exact sameOffChannels_writeChan ..
    · exact fun c => writeChan_tail ..
    · exact sameCountersBut_writeChan (ovfOf_mem_eventCounters ch) _ _ _
  | chPutbFull ch b =>
    refine (eventKeeps_of_produce ?_ ?_ ?_).finish hp
    · exact sameOffChannels_bump ..
    · simp
    · exact sameCountersBut_bump (ovfOf_mem_eventCounters ch) _ _ _
  | chPutb ch b =>
    refine (eventKeeps_of_produce ?_ ?_ ?_).finish hp
    · exact writeStore_sameOffChannels ..
    · exact fun c => writeStore_tail ..
    · exact sameCountersBut_of_cnt_eq (by simp) _
  | rxCaptureReject =>
    refine (eventKeeps_of_produce ?_ ?_ ?_).finish hp
    · exact sameOffChannels_bump ..
    · simp
    · exact sameCountersBut_bump (c := .rxDrop) (by decide) _ _ _
  | rxCapture =>
    refine (eventKeeps_of_produce ?_ ?_ ?_).finish hp
    · exact sameOffChannels_writeChan ..
    · exact fun c => by simp [writeChan_tail]
    · exact (sameCountersBut_writeChan (ch := .chOut) (by decide) _ _ _).trans
        (sameCountersBut_bump (c := .rxOk) (by decide) _ _ _)
  | txDone =>
    refine EventKeeps.finish ⟨rfl, rfl, rfl, rfl, ?_, .inr ⟨rfl, rfl⟩, fun ch => ?_, ?_⟩ hp
    · simp [SameOffChannels]
    · exact .inl (by cases ch <;> rfl)
    · exact .inr (sameCountersBut_of_cnt_eq rfl _)
  | cntReset =>
    refine EventKeeps.finish ⟨rfl, rfl, rfl, rfl, ?_, .inl rfl, fun ch => ?_, .inl rfl⟩ hp
    · simp [SameOffChannels]
    · exact .inl (by cases ch <;> rfl)

end Sys2Proof.Machine
end

section
/-! The frame of an operation on port T, and the statements about who writes what (10_state.md R33, R34, R40). -/

namespace Sys2Proof.Machine

/-! ### The frame of an operation on port T -/

/-- The counters of agent T (10_state.md R40). -/
abbrev tickCounters : List Counter := [.txOk, .txErr]

/-- Of the architectural state, what port T leaves as it was, the transmit-ready flag apart. -/
structure EventSideKept (k l : CoreState) : Prop where
  filterKey : l.filterKey = k.filterKey
  ownAddr : l.ownAddr = k.ownAddr
  channel : ∀ ch, (l.chan ch).head = (k.chan ch).head ∧ (l.chan ch).buf = (k.chan ch).buf
  counters : SameCountersBut tickCounters k l

theorem EventSideKept.refl (k : CoreState) : EventSideKept k k :=
  ⟨rfl, rfl, fun _ => ⟨rfl, rfl⟩, fun _ _ => rfl⟩

theorem EventSideKept.trans {k l m : CoreState} (h : EventSideKept k l) (h' : EventSideKept l m) :
    EventSideKept k m :=
  ⟨h'.filterKey.trans h.filterKey, h'.ownAddr.trans h.ownAddr,
   fun ch => ⟨(h'.channel ch).1.trans (h.channel ch).1, (h'.channel ch).2.trans (h.channel ch).2⟩,
   h.counters.trans h'.counters⟩

theorem eventSideKept_readPublish (cfg : Config) (k : CoreState) (ch : Chan) (n : Nat) :
    EventSideKept k (readPublish cfg k ch n) where
  filterKey := by simp [readPublish]
  ownAddr := by simp [readPublish]
  channel c := by
    by_cases h : c = ch
    · subst h; simp
    · simp [readPublish_chan_of_ne h]
  counters := sameCountersBut_of_cnt_eq (by simp) _

theorem eventSideKept_receive (cfg : Config) (k : CoreState) (n : Nat) (data : List Byte) :
    EventSideKept k (k.receive cfg n data) :=
  (eventSideKept_readPublish cfg k .chIn n).trans
    ⟨by simp [readPublish], by simp [readPublish], by simp, sameCountersBut_of_cnt_eq (by simp) _⟩

theorem eventSideKept_startPacket (k : CoreState) (l : Half) : EventSideKept k (k.startPacket l) :=
  ⟨rfl, rfl, by simp, sameCountersBut_of_cnt_eq rfl _⟩

theorem eventSideKept_awaitHeader (k : CoreState) : EventSideKept k k.awaitHeader :=
  ⟨rfl, rfl, by simp, sameCountersBut_of_cnt_eq rfl _⟩

theorem eventSideKept_advanceSeq (k : CoreState) : EventSideKept k k.advanceSeq :=
  ⟨rfl, rfl, by simp, sameCountersBut_of_cnt_eq rfl _⟩

theorem eventSideKept_bump {c : Counter} (hc : c ∈ tickCounters) (cfg : Config) (k : CoreState) (v : Nat) :
    EventSideKept k (k.bump cfg c v) :=
  ⟨rfl, rfl, by simp, sameCountersBut_bump hc _ _ _⟩

/-- What a piece of an operation on port T leaves as it was: it never sets the transmit-ready flag, and clears it
only in presenting a frame. A frame presented stays presented to the end of the step (`pulse`). -/
structure TickKeeps (s t : State) : Prop where
  cfg : t.cfg = s.cfg
  initialised : t.initialised = s.initialised
  core : EventSideKept s.core t.core
  flag : s.core.txReady = false → t.core.txReady = false
  cleared : t.core.txReady = s.core.txReady ∨ t.tx.isSome = true
  pulse : s.tx.isSome = true → t.tx.isSome = true

theorem TickKeeps.trans {s u t : State} (h : TickKeeps s u) (h' : TickKeeps u t) : TickKeeps s t where
  cfg := h'.cfg.trans h.cfg
  initialised := h'.initialised.trans h.initialised
  core := h.core.trans h'.core
  flag hs := h'.flag (h.flag hs)
  cleared := by
    rcases h'.cleared with heq | hframe
    · exact h.cleared.imp heq.trans h'.pulse
    · exact .inr hframe
  pulse hs := h'.pulse (h.pulse hs)

/-- A piece that neither presents a frame nor touches the transmit-ready flag. -/
theorem tickKeeps_of_core {s t : State} (hcfg : t.cfg = s.cfg) (hinit : t.initialised = s.initialised)
    (htx : t.tx = s.tx) (hflag : t.core.txReady = s.core.txReady) (hcore : EventSideKept s.core t.core) :
    TickKeeps s t :=
  ⟨hcfg, hinit, hcore, fun h => hflag.trans h, .inl hflag, fun h => htx ▸ h⟩

theorem tickKeeps_of_core_eq {s t : State} (hcfg : t.cfg = s.cfg) (hinit : t.initialised = s.initialised)
    (htx : t.tx = s.tx) (hcore : t.core = s.core) : TickKeeps s t :=
  tickKeeps_of_core hcfg hinit htx (by rw [hcore]) (hcore ▸ .refl _)

theorem tickKeeps_finish (s : State) (r : PortResult) : TickKeeps s (s.finish r) :=
  tickKeeps_of_core_eq (by simp) (by simp) (by simp) (by simp)

theorem tickKeeps_endTick (s : State) : TickKeeps s (endTick s) := tickKeeps_finish _ _

theorem tickKeeps_pause (s : State) (m : Micro) : TickKeeps s (s.pause m) := tickKeeps_of_core_eq rfl rfl rfl rfl

theorem tickKeeps_noteUse (s : State) (a : Access) : TickKeeps s (s.noteUse a) :=
  tickKeeps_of_core_eq rfl rfl rfl rfl

theorem tickKeeps_afterOperands (s : State) (n : Nat) : TickKeeps s (s.afterOperands n) :=
  tickKeeps_of_core_eq (by simp) (by simp) (by simp) (by simp)

theorem tickKeeps_setCore {s : State} {k : CoreState} (hflag : k.txReady = s.core.txReady)
    (hk : EventSideKept s.core k) : TickKeeps s (s.setCore k) := tickKeeps_of_core rfl rfl rfl hflag hk

theorem tickKeeps_readPublish (s : State) (ch : Chan) (n : Nat) :
    TickKeeps s (s.setCore (readPublish s.cfg s.core ch n)) :=
  tickKeeps_setCore (by simp [readPublish]) (eventSideKept_readPublish _ _ _ _)

theorem tickKeeps_receive (s : State) (n : Nat) (data : List Byte) :
    TickKeeps s (s.setCore (s.core.receive s.cfg n data)) :=
  tickKeeps_setCore (by simp) (eventSideKept_receive _ _ _ _)

theorem tickKeeps_startPacket (s : State) (l : Half) : TickKeeps s (s.setCore (s.core.startPacket l)) :=
  tickKeeps_setCore rfl (eventSideKept_startPacket _ _)

theorem tickKeeps_awaitHeader (s : State) : TickKeeps s (s.setCore s.core.awaitHeader) :=
  tickKeeps_setCore rfl (eventSideKept_awaitHeader _)

theorem tickKeeps_advanceSeq (s : State) : TickKeeps s (s.setCore s.core.advanceSeq) :=
  tickKeeps_setCore rfl (eventSideKept_advanceSeq _)

theorem tickKeeps_bump {c : Counter} (hc : c ∈ tickCounters) (s : State) :
    TickKeeps s (s.setCore (s.core.bump s.cfg c 1)) := tickKeeps_setCore rfl (eventSideKept_bump hc _ _ _)

/-- The atomic block of TX.SEND is the one place where the flag is cleared, and it presents a frame there. -/
theorem tickKeeps_sendAttempt (payload : List Byte) (s : State) : TickKeeps s (sendAttempt payload s).2 := by
  rcases sendAttempt_cases payload s with ⟨-, h⟩ | ⟨hready, -, hcore, htx, hrest⟩
  · rw [h]
    exact tickKeeps_of_core_eq rfl rfl rfl rfl
  · refine ⟨by rw [hrest], by rw [hrest], ?_, fun h => ?_, .inr (by simp [htx]), fun _ => by simp [htx]⟩
    · rw [hcore]
      exact ⟨rfl, rfl, (eventSideKept_advanceSeq _).channel, sameCountersBut_of_cnt_eq rfl _⟩
    · rw [hready] at h; cases h

theorem tickKeeps_sendCount (r : SendResult) (s : State) : TickKeeps s (sendCount r s) :=
  tickKeeps_bump (by cases r <;> decide) s

theorem tickKeeps_endSend (r : SendResult) (s : State) : TickKeeps s (endSend r s) :=
  (tickKeeps_sendCount r s).trans (tickKeeps_finish _ _)

theorem tickKeeps_endRead (ch : Chan) (n : Nat) (data : List Byte) (s : State) :
    TickKeeps s (endRead ch n data s) := (tickKeeps_readPublish s ch n).trans (tickKeeps_finish _ _)

theorem tickKeeps_endGetb (ch : Chan) (b : Byte) (s : State) : TickKeeps s (endGetb ch b s) :=
  (tickKeeps_readPublish s ch 1).trans (tickKeeps_finish _ _)

theorem tickKeeps_tickDiscard (s : State) : TickKeeps s (tickDiscard s) :=
  (tickKeeps_bump (by decide) s).trans (tickKeeps_endTick _)

theorem tickKeeps_tickCount (r : SendResult) (s : State) : TickKeeps s (tickCount r s) :=
  ((tickKeeps_sendCount r s).trans (tickKeeps_awaitHeader _)).trans (tickKeeps_endTick _)

theorem tickKeeps_tickBadSend (s : State) : TickKeeps s (tickBadSend s) :=
  ((tickKeeps_bump (c := .txErr) (by decide) s).trans (tickKeeps_awaitHeader _)).trans (tickKeeps_endTick _)

theorem tickKeeps_tickSend (s : State) : TickKeeps s (tickSend s) := by
  unfold tickSend
  split
  · exact tickKeeps_tickBadSend s
  · exact (tickKeeps_sendAttempt _ s).trans (tickKeeps_tickCount _ _)

theorem tickKeeps_tickAttempt (s : State) : TickKeeps s (tickAttempt s) := by
  unfold tickAttempt
  split
  · exact tickKeeps_tickBadSend s
  · exact (tickKeeps_sendAttempt _ s).trans (tickKeeps_pause _ _)

theorem tickKeeps_tickAccumulate {s t : State} (h : tickAccumulate s = .next t) : TickKeeps s t := by
  obtain ⟨n, data, _, -, -, rfl, ⟨-, rfl⟩ | ⟨-, rfl⟩⟩ := tickAccumulate_next h
  · exact (tickKeeps_receive s n data).trans (tickKeeps_tickSend _)
  · exact (tickKeeps_receive s n data).trans (tickKeeps_endTick _)

theorem tickKeeps_tickTakePayload {n : Nat} {data : List Byte} {s t : State}
    (h : tickTakePayload n data s = .next t) : TickKeeps s t := by
  obtain ⟨_, rfl, ⟨-, rfl⟩ | ⟨-, rfl⟩⟩ := tickTakePayload_next h
  · exact (tickKeeps_receive s n data).trans (tickKeeps_pause _ _)
  · exact (tickKeeps_receive s n data).trans (tickKeeps_endTick _)

theorem tickKeeps_tickHeader {s t : State} (h : tickHeader s = .next t) : TickKeeps s t := by
  obtain rfl | ⟨-, rfl⟩ | ⟨l, -, -, hpayload⟩ := tickHeader_next h
  · exact tickKeeps_endTick s
  · exact (tickKeeps_readPublish s .chIn 2).trans (tickKeeps_tickDiscard _)
  · exact ((tickKeeps_readPublish s .chIn 2).trans (tickKeeps_startPacket _ l)).trans
      (tickKeeps_tickAccumulate hpayload)

theorem tickKeeps_tickTakeHeader (n : Nat) (data : List Byte) (s : State) :
    TickKeeps s (tickTakeHeader n data s) := by
  unfold tickTakeHeader
  simp only
  split
  · exact (tickKeeps_readPublish s .chIn n).trans (tickKeeps_pause _ _)
  · exact ((tickKeeps_readPublish s .chIn n).trans (tickKeeps_startPacket _ _)).trans (tickKeeps_pause _ _)

theorem tickKeeps_tickFirst (s : State) : TickKeeps s (tickFirst s) := by
  unfold tickFirst
  split
  · split
    · exact tickKeeps_endTick s
    · exact tickKeeps_pause _ _
  · exact tickKeeps_pause _ _

/-- Every micro-step keeps agent E's state. -/
theorem microStep_tickKeeps {m : Micro} {s t : State} (h : microStep m s = .next t) : TickKeeps s t := by
  cases hwf : s.cfg.wf with
  | false => rw [microStep_of_broken hwf] at h; cases h
  | true =>
    simp only [microStep, hwf, Bool.true_eq_false, if_false] at h
    cases m
    case readPublish ch n data => cases h; exact tickKeeps_endRead ch n data s
    case getbPublish ch b => cases h; exact tickKeeps_endGetb ch b s
    case tickHeaderPublish n data => cases h; exact tickKeeps_tickTakeHeader n data s
    case tickBadLength => cases h; exact tickKeeps_tickDiscard s
    case tickPayloadPublish => exact tickKeeps_tickTakePayload h
    case tickSend => cases h; exact tickKeeps_tickAttempt s
    case tickCount r => cases h; exact tickKeeps_tickCount r s
    case sendCount r => cases h; exact tickKeeps_endSend r s
    all_goals cases h; exact tickKeeps_pause _ _

/-- Every operation on port T but SYS.INIT, CH.INIT and CNT.RESET keeps agent E's state. -/
theorem Ran.tickKeeps {i : Instr} {s t : State} (h : Ran s i t) (hp : s.cur.port = .t) (hsys : i ≠ .sysInit)
    (hch : ∀ ch, i ≠ .chInit ch) (hcnt : i ≠ .cntReset) : TickKeeps s t := by
  have hne : s.cur.port ≠ .e := by simp [hp]
  cases h with
  | sysInit => exact absurd rfl hsys
  | chInit ch => exact absurd rfl (hch ch)
  | cntReset => exact absurd rfl hcnt
  | chWrite _ _ hg | chPutbFull _ _ hg | chPutb _ _ hg => exact absurd (port_of_gate_produce hg) hne
  | rxCaptureReject _ _ hg | rxCapture _ _ hg => exact absurd (port_of_gate_capture hg) hne
  | txDone hg => exact absurd (port_of_gate_eventPort hg) hne
  | chAvail | cntRead => exact tickKeeps_finish _ _
  | frmParse => exact (tickKeeps_afterOperands _ _).trans (tickKeeps_finish _ _)
  | chReadStart | chGetbStart => exact (tickKeeps_noteUse _ _).trans (tickKeeps_pause _ _)
  | chGetbEmpty => exact (tickKeeps_noteUse _ _).trans (tickKeeps_finish _ _)
  | chRead => exact (tickKeeps_noteUse _ _).trans (tickKeeps_endRead _ _ _ _)
  | chGetb => exact (tickKeeps_noteUse _ _).trans (tickKeeps_endGetb _ _ _)
  | frmBuild => exact (tickKeeps_advanceSeq s).trans (tickKeeps_finish _ _)
  | raTickStart => exact (tickKeeps_noteUse _ _).trans (tickKeeps_tickFirst _)
  | raTickHeader _ _ _ h => exact (tickKeeps_noteUse _ _).trans (tickKeeps_tickHeader h)
  | raTickPayload _ _ _ h => exact (tickKeeps_noteUse _ _).trans (tickKeeps_tickAccumulate h)
  | txSendBad =>
    refine ((tickKeeps_afterOperands s _).trans (tickKeeps_setCore ?_ ?_)).trans (tickKeeps_finish _ _)
    · simp
    · simpa using eventSideKept_bump (by decide) _ _ _
  | txSendStart _ _ _ _ _ _ ha =>
    subst ha
    exact ((tickKeeps_afterOperands s _).trans (tickKeeps_sendAttempt _ _)).trans (tickKeeps_pause _ _)
  | txSend _ _ _ _ _ _ ha =>
    subst ha
    exact ((tickKeeps_afterOperands s _).trans (tickKeeps_sendAttempt _ _)).trans (tickKeeps_endSend _ _)

/-! ### The statements -/

/-- Settles O52: the step was idle or issued an operation on port E. -/
theorem eventStepsKeepTickState : Obligations.EventStepsKeepTickState := by
  intro s t h hon
  cases step_next h with
  | idle hs =>
    obtain ⟨hcore, -, -, -, -, htx⟩ := hs
    exact ⟨by rw [hcore], by rw [hcore], by rw [hcore], by rw [hcore], by rw [hcore], by rw [hcore], htx,
      .inl (by rw [hcore]), .inl (by rw [hcore]), .inr (sameCountersBut_of_cnt_eq (by rw [hcore]) _)⟩
  | resume _ _ _ ht => cases hon.port_eq ht
  | issue p c cs i u hp _ _ hs hup _ hiss hran =>
    obtain rfl := hon.port_eq hp
    obtain ⟨hcore, -, -, -, -, htx⟩ := hs
    have hk := hran.eventKeeps hup
    obtain ⟨hseq, -, hrs, hexp, hrec, hpkt, -, -⟩ := hk.offChannels
    rw [← hcore]
    refine ⟨?_, hrs, hexp, hrec, hpkt, hseq, hk.tx.trans htx, ?_, ?_, ?_⟩
    · exact (hk.tail .chIn).resolve_right (by simp)
    · simpa only [hiss, eq_comm (b := i)] using hk.flag
    · simpa only [CoreState.chan, hiss, eq_comm (b := i), true_and] using hk.tail .chOut
    · simpa only [hiss, eq_comm (b := i)] using hk.counters

/-- Settles O53: the step was idle, went on with an operation, or issued one on port T. -/
theorem tickStepsKeepEventState : Obligations.TickStepsKeepEventState := by
  intro s t h hon hsys hch
  cases step_next h with
  | idle hs =>
    obtain ⟨hcore, -⟩ := hs
    rw [hcore]
    exact ⟨fun _ => ⟨rfl, rfl⟩, id, .inl rfl, .inr fun _ _ => rfl⟩
  | resume q u _ _ hs _ _ hmicro =>
    obtain ⟨hcore, -⟩ := hs
    have hk := microStep_tickKeeps hmicro
    rw [← hcore]
    exact ⟨hk.core.channel, hk.flag, hk.cleared, .inr hk.core.counters⟩
  | issue p c cs i u hp _ _ hs hup _ hiss hran =>
    obtain rfl := hon.port_eq hp
    obtain ⟨hcore, -⟩ := hs
    rw [← hcore]
    by_cases hreset : i = .cntReset
    · subst hreset
      cases hran
      exact ⟨fun ch => by cases ch <;> simp [CoreState.chan], by simp, .inl (by simp), .inl ((hiss _).2 rfl)⟩
    · have hk := hran.tickKeeps hup (fun e => hsys ((hiss _).2 e.symm)) (fun ch e => hch ch ((hiss _).2 e.symm)) hreset
      exact ⟨hk.core.channel, hk.flag, hk.cleared, .inr hk.core.counters⟩

/-- What every operation but SYS.INIT keeps of the configuration and the identity of the CORE. -/
theorem Ran.identity {i : Instr} {s t : State} (h : Ran s i t) (hsys : i ≠ .sysInit) :
    t.core.filterKey = s.core.filterKey ∧ t.core.ownAddr = s.core.ownAddr ∧ t.initialised = s.initialised ∧
      t.cfg = s.cfg := by
  cases hp : s.cur.port with
  | e =>
    have hk := h.eventKeeps hp
    obtain ⟨-, -, -, -, -, -, hkey, haddr⟩ := hk.offChannels
    exact ⟨hkey, haddr, hk.initialised, hk.cfg⟩
  | t =>
    by_cases hother : (∃ ch, i = .chInit ch) ∨ i = .cntReset
    · obtain ⟨ch, rfl⟩ | rfl := hother <;> cases h <;> simp
    · obtain ⟨hch, hcnt⟩ := not_or.1 hother
      have hk := h.tickKeeps hp hsys (not_exists.1 hch) hcnt
      exact ⟨hk.core.filterKey, hk.core.ownAddr, hk.initialised, hk.cfg⟩

/-- Settles O51: of all that a step can do, only SYS.INIT configures the CORE. -/
theorem keyAndAddressOnlyByInit : Obligations.KeyAndAddressOnlyByInit := by
  intro s t h
  cases step_next h with
  | idle hs hno =>
    obtain ⟨hcore, hcfg, -, hinit, -⟩ := hs
    exact ⟨fun _ => ⟨by rw [hcore], by rw [hcore], hinit, hcfg⟩, fun hi => absurd hi (hno _)⟩
  | resume q u _ _ hs _ hno hmicro =>
    obtain ⟨hcore, hcfg, -, hinit, -⟩ := hs
    have hk := microStep_tickKeeps hmicro
    rw [← hcore, ← hcfg, ← hinit]
    exact ⟨fun _ => ⟨hk.core.filterKey, hk.core.ownAddr, hk.initialised, hk.cfg⟩, fun hi => absurd hi (hno _)⟩
  | issue p c cs i u _ _ hcmd hs hup hconf hiss hran =>
    obtain ⟨hcore, hcfg, -, hinit, -⟩ := hs
    constructor
    · intro hno
      rw [← hcore, ← hcfg, ← hinit]
      exact hran.identity fun e => hno ((hiss _).2 e.symm)
    · intro hi
      obtain rfl := (hiss _).1 hi
      cases hran with
      | sysInit hg _ =>
        obtain rfl : p = .t := hup.symm.trans (gateInit_eq_none.1 hg).2
        exact ⟨c, cs, hcmd, by simpa using hconf, by simp [initCore], by simp [initCore], by simp⟩

end Sys2Proof.Machine
end

section
/-! The architectural state stays good (10_state.md R20 to R32): what each update of it does to `CoreOk`. -/

namespace Sys2Proof.Machine

/-! ### Counters and channels -/

theorem CountersOk.bump {cfg : Config} {k : CoreState} (h : CountersOk cfg k) (c : Counter) (v : Nat) :
    CountersOk cfg (k.bump cfg c v) := by
  intro d
  by_cases hd : d = c
  · subst hd
    rw [CoreState.bump_cnt, Counters.get_set_self]
    exact Nat.mod_lt _ (Nat.two_pow_pos _)
  · rw [CoreState.bump_cnt, Counters.get_set_of_ne hd]
    exact h d

theorem countersOk_zero {cfg : Config} {k : CoreState} (h : k.cnt = ⟨0, 0, 0, 0, 0, 0⟩) : CountersOk cfg k := by
  intro c
  rw [h]
  cases c <;> exact Nat.two_pow_pos _

/-- An update that leaves the channels, `pkt_buf` and the two lengths alone, and does not begin a packet. -/
theorem CoreOk.congr {cfg : Config} {k l : CoreState} (h : CoreOk cfg k) (hchan : ∀ ch, l.chan ch = k.chan ch)
    (hcnt : CountersOk cfg l) (hpkt : l.pktBuf = k.pktBuf) (hexp : l.expected = k.expected)
    (hrec : l.received = k.received) (hrs : l.rsState = .accumulate → k.rsState = .accumulate) : CoreOk cfg l := by
  obtain ⟨hch, -, ⟨hwf, hbound, hwritten⟩, hlen⟩ := h
  refine ⟨fun ch => (hch ch).congr (hchan ch), hcnt, ?_, ?_⟩
  · simpa only [PacketBufferOk, hpkt, hrec] using ⟨hwf, hbound, fun ha => hwritten (hrs ha)⟩
  · simpa only [LengthsOk, hexp, hrec] using hlen

/-- An update of one channel. -/
theorem CoreOk.setChan {cfg : Config} {k : CoreState} (h : CoreOk cfg k) {ch : Chan} {c : Channel}
    (hc : ChannelOk cfg (k.setChan ch c) ch) : CoreOk cfg (k.setChan ch c) := by
  obtain ⟨hch, hcnt, hpkt, hlen⟩ := h
  refine ⟨fun a => ?_, by simpa [CountersOk] using hcnt, by simpa [PacketBufferOk] using hpkt,
    by simpa [LengthsOk] using hlen⟩
  by_cases ha : a = ch
  · exact ha ▸ hc
  · exact (hch a).congr (CoreState.setChan_chan_of_ne ha _ _)

theorem CoreOk.setFlag {cfg : Config} {k : CoreState} (h : CoreOk cfg k) (b : Bool) :
    CoreOk cfg { k with txReady := b } := h.congr (fun ch => by cases ch <;> rfl) h.2.1 rfl rfl rfl id

theorem CoreOk.advanceSeq {cfg : Config} {k : CoreState} (h : CoreOk cfg k) : CoreOk cfg k.advanceSeq :=
  h.congr (by simp) h.2.1 rfl rfl rfl id

theorem CoreOk.resetCounters {cfg : Config} {k : CoreState} (h : CoreOk cfg k) :
    CoreOk cfg { k with cnt := ⟨0, 0, 0, 0, 0, 0⟩ } :=
  h.congr (fun ch => by cases ch <;> rfl) (countersOk_zero rfl) rfl rfl rfl id

theorem CoreOk.bump {cfg : Config} {k : CoreState} (h : CoreOk cfg k) (c : Counter) (v : Nat) :
    CoreOk cfg (k.bump cfg c v) := h.congr (by simp) (h.2.1.bump c v) rfl rfl rfl id

theorem CoreOk.readPublish {cfg : Config} {k : CoreState} (h : CoreOk cfg k) {ch : Chan} {n : Nat}
    (hn : n ≤ occ cfg k ch) : CoreOk cfg (readPublish cfg k ch n) := h.setChan ((h.1 ch).readPublish hn)

theorem CoreOk.writeStore {cfg : Config} {k : CoreState} (h : CoreOk cfg k) {ch : Chan} {bs : List Byte}
    (hbs : bs.length ≤ free cfg k ch) : CoreOk cfg (writeStore cfg k ch bs) := h.setChan ((h.1 ch).writeStore hbs)

theorem CoreOk.writeChan {cfg : Config} {k : CoreState} (h : CoreOk cfg k) (ch : Chan) (data : List Byte) :
    CoreOk cfg (writeChan cfg k ch data).2 := by
  rcases (writeChan_cases cfg k ch data).2 with ⟨hfits, hw⟩ | ⟨-, hw⟩ <;> rw [hw]
  · exact h.writeStore hfits
  · exact (h.writeStore (by simp)).bump _ _

theorem CoreOk.emptyChan {cfg : Config} {k : CoreState} (h : CoreOk cfg k) (hwf : cfg.wf = true) (ch : Chan) :
    CoreOk cfg (k.setChan ch ⟨[], 0, 0⟩) := h.setChan (channelOk_empty (two_le_cap hwf ch) (by simp))

theorem coreOk_initCore {cfg d : Config} (hwf : cfg.wf = true) : CoreOk cfg (initCore d) := by
  refine ⟨fun ch => channelOk_empty (two_le_cap hwf ch) (by cases ch <;> rfl), countersOk_zero rfl, ?_, ?_⟩
  · exact ⟨.nil, by simp [initCore], by simp [initCore]⟩
  · exact ⟨Nat.zero_le _, Nat.zero_le _⟩

/-! ### The reassembler -/

theorem badLength_eq_false {cfg : Config} {n : Nat} : badLength cfg n = false ↔ 1 ≤ n ∧ n ≤ cfg.maxPayload := by
  simp only [badLength, Bool.or_eq_false_iff, decide_eq_false_iff_not]
  omega

theorem CoreOk.startPacket {cfg : Config} {k : CoreState} (h : CoreOk cfg k) {l : Half}
    (hl : l.toNat ≤ cfg.maxPayload) : CoreOk cfg (k.startPacket l) := by
  obtain ⟨hch, hcnt, ⟨hwf, hbound, -⟩, -⟩ := h
  exact ⟨fun ch => (hch ch).congr (by simp), hcnt, ⟨hwf, hbound, by simp [CoreState.startPacket]⟩, hl,
    Nat.zero_le _⟩

/-- The bytes received and those still to come fit the 16 bits of `received`. -/
theorem receive_received_toNat {cfg : Config} {k : CoreState} {n : Nat} {data : List Byte} (hn : n ≤ k.wanted) :
    (k.receive cfg n data).received.toNat = k.received.toNat + n := by
  have hexp := k.expected.isLt
  have hrec := k.received.isLt
  simp only [CoreState.wanted] at hn
  rw [receive_received, BitVec.toNat_add, BitVec.toNat_ofNat, Nat.add_mod_mod, Nat.mod_eq_of_lt (by omega)]

/-- The payload read keeps the first `received` bytes of `pkt_buf` written (10_state.md R30). -/
theorem CoreOk.receive {cfg : Config} {k : CoreState} (h : CoreOk cfg k) {n : Nat} {data : List Byte}
    (hocc : n ≤ occ cfg k .chIn) (hwant : n ≤ k.wanted) (hpart : PartialOk k) (hdata : data.length = n) :
    CoreOk cfg (k.receive cfg n data) := by
  have hreceived := receive_received_toNat (cfg := cfg) (data := data) hwant
  have hchan := (h.readPublish hocc).1
  obtain ⟨-, hcnt, ⟨hwf, hbound, hwritten⟩, hexp, hrec⟩ := h
  obtain ⟨hacc, hlt⟩ := hpart
  simp only [CoreState.wanted] at hwant
  have htake : data.take n = data := List.take_of_length_le hdata.le
  refine ⟨fun ch => (hchan ch).congr (receive_chan ..), hcnt, ⟨?_, ?_, ?_⟩, by simpa using hexp, by omega⟩
  · exact Memory.storeRun_wf hwf _ _
  · rw [receive_pktBuf, htake]
    exact Memory.storeRun_bound hbound _ _ (by omega)
  · intro _ i hi
    rw [receive_pktBuf, htake, Memory.read_storeRun]
    split
    next hnew => simp [List.getElem?_eq_getElem (show i - k.received.toNat < data.length by omega)]
    next hold => exact hwritten hacc i (by omega)

end Sys2Proof.Machine
end

section
/-! The invariant (Safety.lean) is kept by every step: by an operation on port E under the operation in progress on
port T, and by an operation on port T, whole or in micro-steps. -/

namespace Sys2Proof.Machine

/-! ### What an operation in progress rests on -/

/-- The registers of the reassembler are as they were. -/
def SameReassembler (k l : CoreState) : Prop :=
  l.rsState = k.rsState ∧ l.expected = k.expected ∧ l.received = k.received

theorem SameReassembler.refl (k : CoreState) : SameReassembler k k := ⟨rfl, rfl, rfl⟩

theorem SameOffChannels.sameReassembler {k l : CoreState} (h : SameOffChannels k l) : SameReassembler k l := by
  obtain ⟨-, -, hrs, hexp, hrec, -⟩ := h
  exact ⟨hrs, hexp, hrec⟩

theorem BetweenOk.congr {k l : CoreState} (h : BetweenOk k) (hre : SameReassembler k l) : BetweenOk l := by
  obtain ⟨hrs, hexp, hrec⟩ := hre
  simpa only [BetweenOk, hrs, hexp, hrec] using h

theorem PartialOk.congr {k l : CoreState} (h : PartialOk k) (hre : SameReassembler k l) : PartialOk l := by
  obtain ⟨hrs, hexp, hrec⟩ := hre
  simpa only [PartialOk, hrs, hexp, hrec] using h

theorem betweenOk_of_waitHeader {k : CoreState} (h : k.rsState = .waitHeader) : BetweenOk k := by
  simp [BetweenOk, h]

/-- An incomplete packet expects at least one byte. -/
theorem PartialOk.betweenOk {k : CoreState} (h : PartialOk k) : BetweenOk k :=
  fun _ => ⟨Nat.one_le_of_lt h.2, h.2⟩

/-- A pending read stays good where its channel loses no byte and its consumer stays bound. -/
theorem ReadOk.mono {s t : State} {ch : Chan} {n : Nat} (h : ReadOk s ch n)
    (hocc : occ s.cfg s.core ch ≤ occ t.cfg t.core ch)
    (huse : ch = .chOut → t.runUse.outConsumer = s.runUse.outConsumer) : ReadOk t ch n := by
  obtain ⟨hn, hlt, hcons⟩ := h
  exact ⟨hn.trans hocc, hlt, fun e => (huse e).trans (hcons e)⟩

/-- A pending micro-step stays good where the reassembler does not move and every pending read stays good. -/
theorem MicroOk.mono {s t : State} {m : Micro} (h : MicroOk s m) (hre : SameReassembler s.core t.core)
    (hread : ∀ ch n, ReadOk s ch n → ReadOk t ch n) : MicroOk t m := by
  have hbetween : BetweenOk s.core → BetweenOk t.core := (·.congr hre)
  have hpart : PartialOk s.core → PartialOk t.core := (·.congr hre)
  obtain ⟨hrs, hexp, hrec⟩ := hre
  cases m <;> simp only [MicroOk, CoreState.wanted, hrs, hexp, hrec] at h ⊢
  case readCopy | getbCopy | getbPublish => exact h.imp (hread _ _) hbetween
  case readPublish => exact h.imp (hread _ _) (And.imp_right hbetween)
  case tickHeaderSnap => exact h.imp_left (hread _ _)
  case tickHeaderCopy => exact h.imp_right (And.imp_left (hread _ _))
  case tickHeaderPublish => exact h.imp_right (And.imp_right (And.imp_left (hread _ _)))
  case tickPayloadSnap => exact hpart h
  case tickPayloadCopy => exact h.imp (hread _ _) (And.imp_right hpart)
  case tickPayloadPublish => exact h.imp (hread _ _) (And.imp_right (And.imp_right hpart))
  case sendCount => exact hbetween h
  case tickBadLength | tickSend | tickCount => exact h

/-- The invariant speaks of the configuration, the architectural state, the operation in progress and the uses of
the run only. -/
theorem Inv.starts {s u : State} (h : Inv s) (hs : Starts s u) : Inv u := by
  obtain ⟨hcore, hcfg, hprog, hinit, huse, -⟩ := hs
  have hread : ∀ ch n, ReadOk s ch n → ReadOk u ch n := fun ch n hr =>
    hr.mono (by rw [hcore, hcfg]) (fun _ => by rw [huse])
  obtain ⟨hwf, hgood, hraw⟩ := h
  refine ⟨hcfg ▸ hwf, fun hi => ?_, fun hi => hprog.trans (hraw (hinit ▸ hi))⟩
  obtain ⟨hok, hp⟩ := hgood (hinit ▸ hi)
  refine ⟨by rwa [hcfg, hcore], ?_⟩
  simp only [ProgressOk, hprog] at hp ⊢
  split at hp
  · rwa [hcore]
  · exact ⟨hp.1, hp.2.mono (by rw [hcore]; exact .refl _) hread⟩

/-- With nothing in progress the reassembler is between operations. -/
theorem ProgressOk.betweenOk {s : State} (h : ProgressOk s) (hfree : s.inProgress = none) : BetweenOk s.core := by
  simpa only [ProgressOk, hfree] using h

/-! ### What a pending read of port T keeps -/

/-- No use of the run but a read of CH_OUT binds its consumer. -/
theorem note_outConsumer (u : RunUse) (p : Port) {a : Access} (ha : a ≠ .consume .chOut) :
    (u.note p a).outConsumer = u.outConsumer := by
  cases a with
  | produce ch => cases ch <;> rfl
  | consume ch => cases ch with
    | chIn => rfl
    | chOut => exact absurd rfl ha
  | _ => rfl

/-- While port E may consume CH_OUT, port T reads only CH_IN, which port E's reads leave alone. -/
theorem ReadOk.of_consume {s t : State} {ch c : Chan} {n : Nat} (h : ReadOk s c n)
    (hg : gate s (.consume ch) = none) (hp : s.cur.port = .e) (hcfg : t.cfg = s.cfg)
    (hin : t.core.chan .chIn = s.core.chan .chIn) : ReadOk t c n := by
  obtain rfl := chan_of_gate_consume hg hp
  cases c with
  | chIn => exact h.mono (by rw [hcfg, occ_congr hin]) (by simp)
  | chOut =>
    obtain ⟨-, -, hcons⟩ := h
    have hfree := portRefusal_consume_out.1 (gate_eq_none.1 hg).2.2
    simp [hcons rfl, hp] at hfree

/-- Writing takes no byte away from any channel. -/
theorem occ_le_writeStore {cfg : Config} {k : CoreState} {ch : Chan} (h : ChannelOk cfg k ch) {bs : List Byte}
    (hbs : bs.length ≤ free cfg k ch) (c : Chan) : occ cfg k c ≤ occ cfg (writeStore cfg k ch bs) c := by
  by_cases hc : c = ch
  · subst hc
    rw [occ_writeStore h hbs]
    omega
  · rw [occ_congr (writeStore_chan_of_ne hc _ _ _)]

theorem occ_le_writeChan {cfg : Config} {k : CoreState} {ch : Chan} (h : ChannelOk cfg k ch) (data : List Byte)
    (c : Chan) : occ cfg k c ≤ occ cfg (writeChan cfg k ch data).2 c := by
  rcases (writeChan_cases cfg k ch data).2 with ⟨hfits, hw⟩ | ⟨-, hw⟩ <;> rw [hw]
  · exact occ_le_writeStore h hfits c
  · rw [occ_congr (CoreState.bump_chan ..)]
    exact occ_le_writeStore h (by simp) c

/-! ### Operations on port T -/

/-- Port T runs an operation in a CORE whose architectural state is good. -/
structure OnTick (s : State) : Prop where
  wf : s.cfg.wf = true
  initialised : s.initialised = true
  port : s.cur.port = .t
  core : CoreOk s.cfg s.core

theorem OnTick.setCore {s : State} (h : OnTick s) {k : CoreState} (hk : CoreOk s.cfg k) : OnTick (s.setCore k) :=
  ⟨h.wf, h.initialised, h.port, hk⟩

theorem OnTick.noteUse {s : State} (h : OnTick s) (a : Access) : OnTick (s.noteUse a) :=
  ⟨h.wf, h.initialised, h.port, h.core⟩

theorem OnTick.afterOperands {s : State} (h : OnTick s) (n : Nat) : OnTick (s.afterOperands n) :=
  ⟨by simpa using h.wf, by simpa using h.initialised, by simpa using h.port, by simpa using h.core⟩

theorem OnTick.bump {s : State} (h : OnTick s) (c : Counter) : OnTick (s.setCore (s.core.bump s.cfg c 1)) :=
  h.setCore (h.core.bump c 1)

theorem OnTick.awaitHeader {s : State} (h : OnTick s) : OnTick (s.setCore s.core.awaitHeader) :=
  h.setCore (h.core.congr (by simp) h.core.2.1 rfl rfl rfl (by simp))

theorem OnTick.readPublish {s : State} (h : OnTick s) {ch : Chan} {n : Nat} (hn : n ≤ occ s.cfg s.core ch) :
    OnTick (s.setCore (readPublish s.cfg s.core ch n)) := h.setCore (h.core.readPublish hn)

/-- TX.SEND's atomic block leaves the reassembler alone. -/
theorem sendAttempt_sameReassembler (payload : List Byte) (s : State) :
    SameReassembler s.core (sendAttempt payload s).2.core := by
  rcases sendAttempt_cases payload s with ⟨-, h⟩ | ⟨-, -, hcore, -⟩
  · rw [h]; exact .refl _
  · rw [hcore]; exact .refl _

theorem OnTick.sendAttempt {s : State} (h : OnTick s) (payload : List Byte) : OnTick (sendAttempt payload s).2 := by
  rcases sendAttempt_cases payload s with ⟨-, he⟩ | ⟨-, -, hcore, -, hrest⟩
  · rwa [he]
  · refine ⟨by rw [hrest]; exact h.wf, by rw [hrest]; exact h.initialised, by rw [hrest]; exact h.port, ?_⟩
    rw [hrest, hcore]
    exact h.core.advanceSeq.setFlag _

/-- An operation on port T ends, the reassembler between operations. -/
theorem OnTick.inv_finish {s : State} (h : OnTick s) (hb : BetweenOk s.core) (r : PortResult) :
    Inv (s.finish r) := by
  have hprog : (s.finish r).inProgress = none := by rw [State.finish_inProgress, if_pos h.port]
  refine ⟨by simpa using h.wf, fun _ => ⟨by simpa using h.core, ?_⟩, fun _ => hprog⟩
  simpa [ProgressOk, hprog] using hb

/-- An operation on port T stops before a micro-step that finds what it needs. -/
theorem OnTick.inv_pause {s : State} (h : OnTick s) {m : Micro} (hm : MicroOk s m) : Inv (s.pause m) := by
  refine ⟨h.wf, fun _ => ⟨h.core, h.port, ?_⟩, fun hi => ?_⟩
  · exact hm.mono (.refl _) fun _ _ hr => hr
  · rw [State.pause_initialised, h.initialised] at hi; cases hi

theorem OnTick.inv_endTick {s : State} (h : OnTick s) (hb : BetweenOk s.core) : Inv (endTick s) := h.inv_finish hb _

theorem OnTick.inv_tickDiscard {s : State} (h : OnTick s) (hrs : s.core.rsState = .waitHeader) :
    Inv (tickDiscard s) := (h.bump .txErr).inv_endTick (betweenOk_of_waitHeader hrs)

theorem OnTick.inv_tickCount {s : State} (h : OnTick s) (r : SendResult) : Inv (tickCount r s) :=
  (h.bump (sendCounter r)).awaitHeader.inv_endTick (betweenOk_of_waitHeader rfl)

theorem OnTick.inv_tickBadSend {s : State} (h : OnTick s) : Inv (tickBadSend s) :=
  (h.bump .txErr).awaitHeader.inv_endTick (betweenOk_of_waitHeader rfl)

theorem OnTick.inv_tickSend {s : State} (h : OnTick s) : Inv (tickSend s) := by
  unfold tickSend
  split
  · exact h.inv_tickBadSend
  · exact (h.sendAttempt _).inv_tickCount _

theorem OnTick.inv_tickAttempt {s : State} (h : OnTick s) (hrs : s.core.rsState = .accumulate) :
    Inv (tickAttempt s) := by
  unfold tickAttempt
  split
  · exact h.inv_tickBadSend
  · exact (h.sendAttempt _).inv_pause ((sendAttempt_sameReassembler _ s).1.trans hrs)

/-- A packet that the payload read does not complete is still incomplete. -/
theorem PartialOk.receive {cfg : Config} {k : CoreState} {n : Nat} {data : List Byte} (h : PartialOk k)
    (hwant : n ≤ k.wanted)
    (hne : (k.receive cfg n data).received ≠ (k.receive cfg n data).expected) :
    PartialOk (k.receive cfg n data) := by
  have hreceived := receive_received_toNat (cfg := cfg) (data := data) hwant
  refine ⟨h.1, ?_⟩
  rw [ne_eq, ← BitVec.toNat_inj] at hne
  simp only [CoreState.wanted] at hwant
  rw [receive_expected] at hne ⊢
  have := h.2
  omega

theorem OnTick.inv_tickAccumulate {s t : State} (h : OnTick s) (hpart : PartialOk s.core)
    (ht : tickAccumulate s = .next t) : Inv t := by
  obtain ⟨n, data, _, hn, hdata, rfl, hend⟩ := tickAccumulate_next ht
  have hocc : n ≤ occ s.cfg s.core .chIn := hn ▸ Nat.min_le_right _ _
  have hwant : n ≤ s.core.wanted := hn ▸ Nat.min_le_left _ _
  have hu := h.setCore (h.core.receive hocc hwant hpart (data := data) (by simp [hdata]))
  rcases hend with ⟨-, rfl⟩ | ⟨hne, rfl⟩
  · exact hu.inv_tickSend
  · exact hu.inv_endTick (hpart.receive hwant hne).betweenOk

theorem OnTick.inv_tickTakePayload {s t : State} (h : OnTick s) {n : Nat} {data : List Byte}
    (hm : MicroOk s (.tickPayloadPublish n data)) (ht : tickTakePayload n data s = .next t) : Inv t := by
  obtain ⟨⟨hocc, -⟩, hdata, hwant, hpart⟩ := hm
  obtain ⟨_, rfl, hend⟩ := tickTakePayload_next ht
  have hu := h.setCore (h.core.receive hocc hwant hpart hdata)
  rcases hend with ⟨hfull, rfl⟩ | ⟨hne, rfl⟩
  · exact hu.inv_pause ⟨hpart.1, Nat.one_le_of_lt hpart.2, hfull⟩
  · exact hu.inv_endTick (hpart.receive hwant hne).betweenOk

/-- A packet begun with a valid length is incomplete. -/
theorem OnTick.startPacket {s : State} (h : OnTick s) {l : Half} (hl : badHeader s.cfg l = false) :
    OnTick (s.setCore (s.core.startPacket l)) ∧ PartialOk (s.core.startPacket l) := by
  obtain ⟨hpos, hmax⟩ := badLength_eq_false.1 hl
  exact ⟨h.setCore (h.core.startPacket hmax), rfl, hpos⟩

theorem OnTick.inv_tickHeader {s t : State} (h : OnTick s) (hrs : s.core.rsState = .waitHeader)
    (ht : tickHeader s = .next t) : Inv t := by
  obtain rfl | ⟨hocc, rfl⟩ | ⟨l, hocc, hl, hpayload⟩ := tickHeader_next ht
  · exact h.inv_endTick (betweenOk_of_waitHeader hrs)
  · exact (h.readPublish hocc).inv_tickDiscard ((readPublish_sameOffChannels ..).sameReassembler.1.trans hrs)
  · obtain ⟨hu, hpart⟩ := (h.readPublish hocc).startPacket hl
    exact hu.inv_tickAccumulate hpart hpayload

theorem OnTick.inv_tickTakeHeader {s : State} (h : OnTick s) {n : Nat} {data : List Byte}
    (hm : MicroOk s (.tickHeaderPublish n data)) : Inv (tickTakeHeader n data s) := by
  obtain ⟨rfl, -, ⟨hocc, -⟩, hrs⟩ := hm
  have hu := h.readPublish hocc
  unfold tickTakeHeader
  simp only
  split
  next => exact hu.inv_pause ((readPublish_sameOffChannels ..).sameReassembler.1.trans hrs)
  next hl =>
    obtain ⟨hv, hpart⟩ := hu.startPacket (Bool.of_not_eq_true hl)
    exact hv.inv_pause hpart

/-- The snapshot of a read asks for bytes that are there. -/
theorem readOk_readSnap {s : State} {ch : Chan} {max : Nat} (hmax : max < 2 ^ 16)
    (hcons : ch = .chOut → s.runUse.outConsumer = some .t) : ReadOk s ch (readSnap s.cfg s.core ch max) :=
  ⟨Nat.min_le_right _ _, (Nat.min_le_left _ _).trans_lt hmax, hcons⟩

theorem wanted_lt (k : CoreState) : k.wanted < 2 ^ 16 := (Nat.sub_le _ _).trans_lt k.expected.isLt

theorem microOk_tickPayloadCopy {s : State} (hpart : PartialOk s.core) :
    MicroOk s (.tickPayloadCopy (readSnap s.cfg s.core .chIn s.core.wanted)) :=
  ⟨readOk_readSnap (wanted_lt _) (by simp), Nat.min_le_left _ _, hpart⟩

theorem OnTick.inv_tickFirst {s : State} (h : OnTick s) (hb : BetweenOk s.core) : Inv (tickFirst s) := by
  unfold tickFirst
  split
  next hrs =>
    split
    next => exact h.inv_endTick hb
    next hocc => exact h.inv_pause ⟨⟨by omega, by decide, by simp⟩, hrs⟩
  next hrs => exact h.inv_pause (microOk_tickPayloadCopy ⟨hrs, (hb hrs).2⟩)

/-- Every micro-step keeps the invariant. -/
theorem OnTick.inv_microStep {s t : State} {m : Micro} (h : OnTick s) (hm : MicroOk s m)
    (ht : microStep m s = .next t) : Inv t := by
  simp only [microStep, h.wf, Bool.true_eq_false, if_false] at ht
  cases m
  case readCopy ch n =>
    cases ht
    exact h.inv_pause ⟨hm.1, by simp, hm.2⟩
  case readPublish ch n data =>
    cases ht
    obtain ⟨⟨hocc, -⟩, -, hb⟩ := hm
    exact (h.readPublish hocc).inv_finish (hb.congr (readPublish_sameOffChannels ..).sameReassembler) _
  case getbCopy ch =>
    cases ht
    exact h.inv_pause hm
  case getbPublish ch b =>
    cases ht
    obtain ⟨⟨hocc, -⟩, hb⟩ := hm
    exact (h.readPublish hocc).inv_finish (hb.congr (readPublish_sameOffChannels ..).sameReassembler) _
  case tickHeaderSnap =>
    cases ht
    exact h.inv_pause ⟨readSnap_of_le hm.1.1, hm⟩
  case tickHeaderCopy n =>
    cases ht
    obtain ⟨rfl, hread, hrs⟩ := hm
    exact h.inv_pause ⟨rfl, by simp, hread, hrs⟩
  case tickHeaderPublish n data =>
    cases ht
    exact h.inv_tickTakeHeader hm
  case tickBadLength =>
    cases ht
    exact h.inv_tickDiscard hm
  case tickPayloadSnap =>
    cases ht
    exact h.inv_pause (microOk_tickPayloadCopy hm)
  case tickPayloadCopy n =>
    cases ht
    obtain ⟨hread, hwant, hpart⟩ := hm
    exact h.inv_pause ⟨hread, by simp, hwant, hpart⟩
  case tickPayloadPublish n data => exact h.inv_tickTakePayload hm ht
  case tickSend =>
    cases ht
    exact h.inv_tickAttempt hm.1
  case tickCount r =>
    cases ht
    exact h.inv_tickCount r
  case sendCount r =>
    cases ht
    exact (h.bump (sendCounter r)).inv_finish hm _

end Sys2Proof.Machine
end

section
/-! Every operation issued from a good state leaves one, and the statements about the invariant. -/

namespace Sys2Proof.Machine

theorem Ran.initialised {i : Instr} {s t : State} (h : Ran s i t) (hsys : i ≠ .sysInit) : s.initialised = true := by
  cases h
  case sysInit => exact absurd rfl hsys
  all_goals exact (gate_eq_none.1 ‹gate s _ = none›).2.1

theorem one_le_occ {cfg : Config} {k : CoreState} {ch : Chan} (h : ChannelOk cfg k ch) (he : isEmpty k ch = false) :
    1 ≤ occ cfg k ch := by
  rw [← Bool.not_eq_true, isEmpty_iff h] at he
  omega

theorem one_le_free {cfg : Config} {k : CoreState} {ch : Chan} (h : ChannelOk cfg k ch) (hwf : cfg.wf = true)
    (hf : isFull cfg k ch = false) : 1 ≤ free cfg k ch := by
  rw [← Bool.not_eq_true, isFull_iff h (two_le_cap hwf ch)] at hf
  omega

/-! ### Port E -/

/-- An operation on port E keeps the invariant where it keeps the architectural state good and every pending read
of port T finds what it needs. -/
theorem EventKeeps.inv {i : Instr} {s t : State} (h : EventKeeps i s t) (hs : Inv s) (hinit : s.initialised = true)
    (hok : CoreOk s.cfg t.core) (hread : ∀ ch n, ReadOk s ch n → ReadOk t ch n) : Inv t := by
  obtain ⟨-, -, hrs, hexp, hrec, -⟩ := h.offChannels
  have hre : SameReassembler s.core t.core := ⟨hrs, hexp, hrec⟩
  obtain ⟨hwf, hgood, -⟩ := hs
  obtain ⟨-, hprog⟩ := hgood hinit
  refine ⟨h.cfg ▸ hwf, fun _ => ⟨h.cfg ▸ hok, ?_⟩, fun hi => ?_⟩
  · simp only [ProgressOk, h.inProgress] at hprog ⊢
    split at hprog
    · exact hprog.congr hre
    · exact ⟨hprog.1, hprog.2.mono hre hread⟩
  · rw [h.initialised, hinit] at hi; cases hi

/-- A write keeps every pending read: it takes no byte away and binds no consumer. -/
theorem ReadOk.of_produce {s t : State} {c : Chan} {n : Nat} {a : Access} (h : ReadOk s c n)
    (ha : a ≠ .consume .chOut) (hocc : occ s.cfg s.core c ≤ occ s.cfg t.core c) (hcfg : t.cfg = s.cfg := by simp)
    (huse : t.runUse = s.runUse.note s.cur.port a := by simp) : ReadOk t c n :=
  h.mono (by rwa [hcfg]) fun _ => by rw [huse, note_outConsumer _ _ ha]

/-- An operation that leaves the channels and the uses of the run alone keeps every pending read. -/
theorem ReadOk.congr {s t : State} {c : Chan} {n : Nat} (h : ReadOk s c n)
    (hchan : t.core.chan c = s.core.chan c := by simp) (hcfg : t.cfg = s.cfg := by simp)
    (huse : t.runUse = s.runUse := by simp) : ReadOk t c n :=
  h.mono (by rw [hcfg, occ_congr hchan]) fun _ => by rw [huse]

theorem Ran.keeps_reads_of_event {i : Instr} {s t : State} (h : Ran s i t) (hwf : s.cfg.wf = true)
    (hok : CoreOk s.cfg s.core) (hp : s.cur.port = .e) :
    CoreOk s.cfg t.core ∧ ∀ c n, ReadOk s c n → ReadOk t c n := by
  have hnt : s.cur.port ≠ .t := by simp [hp]
  cases h with
  | sysInit hg => exact absurd (gateInit_eq_none.1 hg).2 hnt
  | chInit _ hg | frmBuild hg | txSendBad _ hg | txSendStart _ _ hg | txSend _ _ hg =>
    exact absurd (port_of_gate_tickPort hg) hnt
  | raTickStart hg | raTickHeader hg | raTickPayload hg => exact absurd (port_of_gate_tick hg) hnt
  | chReadStart _ _ _ hw | chGetbStart _ _ _ hw => exact absurd (port_of_stepwise hw) hnt
  | chAvail | frmParse | cntRead => exact ⟨by simpa using hok, fun c n hr => hr.congr⟩
  | chGetbEmpty ch hg => exact ⟨by simpa using hok, fun c n hr => hr.of_consume hg hp (by simp) (by simp)⟩
  | chRead ch max hg =>
    obtain rfl := chan_of_gate_consume hg hp
    refine ⟨?_, fun c n hr => hr.of_consume hg hp (by simp [endRead]) ?_⟩ <;>
      simp only [endRead, State.finish_core, State.setCore_core]
    · exact hok.readPublish (Nat.min_le_right _ _)
    · exact readPublish_chan_of_ne (by decide) ..
  | chGetb ch hg he =>
    obtain rfl := chan_of_gate_consume hg hp
    refine ⟨?_, fun c n hr => hr.of_consume hg hp (by simp [endGetb]) ?_⟩ <;>
      simp only [endGetb, State.finish_core, State.setCore_core]
    · exact hok.readPublish (one_le_occ (hok.1 _) he)
    · exact readPublish_chan_of_ne (by decide) ..
  | chWrite ch len =>
    refine ⟨by simpa using hok.writeChan ch _, fun c n hr => hr.of_produce (a := .produce ch) (by simp) ?_⟩
    simpa using occ_le_writeChan (hok.1 ch) _ c
  | chPutbFull ch b =>
    refine ⟨by simpa using hok.bump _ _, fun c n hr => hr.of_produce (a := .produce ch) (by simp) ?_⟩
    simp [occ]
  | chPutb ch b hg hf =>
    have hroom : [b].length ≤ free s.cfg s.core ch := one_le_free (hok.1 ch) hwf hf
    refine ⟨by simpa using hok.writeStore hroom, fun c n hr => hr.of_produce (a := .produce ch) (by simp) ?_⟩
    simpa using occ_le_writeStore (hok.1 ch) hroom c
  | rxCaptureReject =>
    refine ⟨by simpa using hok.bump _ _, fun c n hr => hr.of_produce (a := .capture) (by simp) ?_⟩
    simp [occ]
  | rxCapture count data =>
    refine ⟨by simpa using (hok.writeChan .chOut data).bump _ _,
      fun c n hr => hr.of_produce (a := .capture) (by simp) ?_⟩
    simpa [occ] using occ_le_writeChan (hok.1 .chOut) data c
  | txDone =>
    exact ⟨by simpa using hok.setFlag true, fun c n hr => hr.congr (by cases c <;> simp [CoreState.chan])⟩
  | cntReset =>
    exact ⟨by simpa using hok.resetCounters, fun c n hr => hr.congr (by cases c <;> simp [CoreState.chan])⟩

theorem Ran.inv_of_event {i : Instr} {s t : State} (h : Ran s i t) (hs : Inv s) (hp : s.cur.port = .e) : Inv t := by
  have hsys : i ≠ .sysInit := by
    rintro rfl
    cases h with
    | sysInit hg => rw [(gateInit_eq_none.1 hg).2] at hp; cases hp
  have hinit := h.initialised hsys
  obtain ⟨hok, hread⟩ := h.keeps_reads_of_event hs.1 (hs.2.1 hinit).1 hp
  exact (h.eventKeeps hp).inv hs hinit hok hread

/-! ### Port T -/

theorem OnTick.inv_endSend {s : State} (h : OnTick s) (hb : BetweenOk s.core) (r : SendResult) :
    Inv (endSend r s) := (h.bump (sendCounter r)).inv_finish hb _

/-- A read issued on port T binds the consumer it rests on. -/
theorem OnTick.outConsumer_noteUse {s : State} (h : OnTick s) (ch : Chan) :
    ch = .chOut → (s.noteUse (.consume ch)).runUse.outConsumer = some .t := by
  rintro rfl
  exact congrArg some h.port

/-- An operation on port T issued between operations, SYS.INIT apart. -/
theorem Ran.inv_of_tick {i : Instr} {s t : State} (h : Ran s i t) (hs : OnTick s) (hb : BetweenOk s.core)
    (hsys : i ≠ .sysInit) : Inv t := by
  have hne : s.cur.port ≠ .e := by simp [hs.port]
  have hoperands (n : Nat) : BetweenOk (s.afterOperands n).core := by simpa using hb
  cases h with
  | sysInit => exact absurd rfl hsys
  | chWrite _ _ hg | chPutbFull _ _ hg | chPutb _ _ hg => exact absurd (port_of_gate_produce hg) hne
  | rxCaptureReject _ _ hg | rxCapture _ _ hg => exact absurd (port_of_gate_capture hg) hne
  | txDone hg => exact absurd (port_of_gate_eventPort hg) hne
  | chInit ch =>
    exact (hs.setCore (hs.core.emptyChan hs.wf ch)).inv_finish (hb.congr (by simp [SameReassembler])) _
  | chAvail | cntRead => exact hs.inv_finish hb _
  | chReadStart ch max =>
    exact (hs.noteUse _).inv_pause ⟨readOk_readSnap max.isLt (hs.outConsumer_noteUse ch), hb⟩
  | chRead ch max =>
    have hocc : readSnap s.cfg s.core ch max.toNat ≤ occ s.cfg s.core ch := Nat.min_le_right _ _
    exact ((hs.noteUse (.consume ch)).readPublish hocc).inv_finish
      (hb.congr (readPublish_sameOffChannels ..).sameReassembler) _
  | chGetbEmpty => exact (hs.noteUse _).inv_finish hb _
  | chGetbStart ch _ he =>
    exact (hs.noteUse _).inv_pause ⟨⟨one_le_occ (hs.core.1 ch) he, by decide, hs.outConsumer_noteUse ch⟩, hb⟩
  | chGetb ch _ he =>
    exact ((hs.noteUse (.consume ch)).readPublish (one_le_occ (hs.core.1 ch) he)).inv_finish
      (hb.congr (readPublish_sameOffChannels ..).sameReassembler) _
  | frmBuild => exact (hs.setCore hs.core.advanceSeq).inv_finish hb _
  | frmParse => exact (hs.afterOperands _).inv_finish (hoperands _) _
  | cntReset => exact (hs.setCore hs.core.resetCounters).inv_finish hb _
  | raTickStart => exact (hs.noteUse _).inv_tickFirst hb
  | raTickHeader _ _ hrs ht => exact (hs.noteUse _).inv_tickHeader hrs ht
  | raTickPayload _ _ hrs ht => exact (hs.noteUse _).inv_tickAccumulate ⟨hrs, (hb hrs).2⟩ ht
  | txSendBad len =>
    have hu := (hs.afterOperands len.toNat).setCore (k := s.core.bump s.cfg .txErr 1)
      (by simpa using hs.core.bump .txErr 1)
    exact hu.inv_finish hb _
  | txSendStart _ _ _ _ _ _ ha =>
    subst ha
    exact ((hs.afterOperands _).sendAttempt _).inv_pause ((hoperands _).congr (sendAttempt_sameReassembler ..))
  | txSend _ _ _ _ _ _ ha =>
    subst ha
    exact ((hs.afterOperands _).sendAttempt _).inv_endSend ((hoperands _).congr (sendAttempt_sameReassembler ..)) _

/-- SYS.INIT leaves the invariant whatever stood before. -/
theorem Ran.inv_of_sysInit {s t : State} (h : Ran s .sysInit t) : Inv t := by
  cases h with
  | sysInit hg hwf =>
    have hu : OnTick (s.configure s.confIn) := ⟨hwf, rfl, (gateInit_eq_none.1 hg).2, coreOk_initCore hwf⟩
    exact hu.inv_finish (betweenOk_of_waitHeader rfl) _

/-! ### Every operation and every step -/

/-- An operation issued from a state with the invariant; port T issues one only with none in progress. -/
theorem Ran.inv {i : Instr} {s t : State} (h : Ran s i t) (hs : Inv s)
    (hfree : s.cur.port = .t → s.inProgress = none) : Inv t := by
  by_cases hsys : i = .sysInit
  · subst hsys; exact h.inv_of_sysInit
  cases hp : s.cur.port with
  | e => exact h.inv_of_event hs hp
  | t =>
    have hinit := h.initialised hsys
    obtain ⟨hok, hprog⟩ := hs.2.1 hinit
    exact h.inv_of_tick ⟨hs.1, hinit, hp, hok⟩ (hprog.betweenOk (hfree hp)) hsys

/-- A micro-step of the operation in progress, from a state with the invariant. -/
theorem Inv.microStep {s t : State} {q : InProgress} (hs : Inv s) (hq : s.inProgress = some q) (hcur : s.cur = q.op)
    (h : microStep q.next s = .next t) : Inv t := by
  obtain ⟨hwf, hgood, hraw⟩ := hs
  have hinit : s.initialised = true := by
    by_contra hno
    rw [hraw (Bool.of_not_eq_true hno)] at hq
    cases hq
  obtain ⟨hok, hprog⟩ := hgood hinit
  simp only [ProgressOk, hq] at hprog
  obtain ⟨hport, hm⟩ := hprog
  exact OnTick.inv_microStep ⟨hwf, hinit, hcur ▸ hport, hok⟩ hm h

/-- Settles O49: the step was idle, went on with the operation in progress, or issued one. -/
theorem stepKeepsTheInvariant : Obligations.StepKeepsTheInvariant := by
  intro s t hs h
  cases step_next h with
  | idle hst => exact hs.starts hst
  | resume q u hq _ hst hcur _ hmicro =>
    have ⟨_, _, hprog, _⟩ := hst
    exact (hs.starts hst).microStep (hprog.trans hq) hcur hmicro
  | issue p c cs i u _ hfree _ hst hport _ _ hran =>
    have ⟨_, _, hprog, _⟩ := hst
    exact hran.inv (hs.starts hst) fun hp => hprog.trans (hfree (hport.symm.trans hp))

/-- Settles O48: the reset state is what SYS.INIT leaves under TC1, which is a good configuration. -/
theorem resetMeetsTheInvariant : Obligations.ResetMeetsTheInvariant := by
  have hwf : State.reset.cfg.wf = true := by decide
  have hok : CoreOk State.reset.cfg State.reset.core := coreOk_initCore hwf
  exact ⟨hwf, fun _ => ⟨hok, betweenOk_of_waitHeader rfl⟩, fun _ => rfl⟩

end Sys2Proof.Machine
end

section
/-! The ends of the channels within a run (20_memory.md R58, 60_exceptions.md R189): an operation is noted once, as it
is issued, and no micro-step notes anything. -/

namespace Sys2Proof.Machine

/-! ### What the parts of an operation leave of the uses -/

@[simp] theorem endTick_runUse (s : State) : (endTick s).runUse = s.runUse := by simp [endTick]

@[simp] theorem endRead_runUse (ch : Chan) (n : Nat) (data : List Byte) (s : State) :
    (endRead ch n data s).runUse = s.runUse := by simp [endRead]

@[simp] theorem endGetb_runUse (ch : Chan) (b : Byte) (s : State) : (endGetb ch b s).runUse = s.runUse := by
  simp [endGetb]

@[simp] theorem sendAttempt_runUse (payload : List Byte) (s : State) :
    (sendAttempt payload s).2.runUse = s.runUse := by
  rcases sendAttempt_cases payload s with ⟨-, h⟩ | ⟨-, -, -, -, h⟩ <;> rw [h]

@[simp] theorem endSend_runUse (r : SendResult) (s : State) : (endSend r s).runUse = s.runUse := by
  simp [endSend, sendCount]

@[simp] theorem tickCount_runUse (r : SendResult) (s : State) : (tickCount r s).runUse = s.runUse := by
  simp [tickCount, sendCount]

@[simp] theorem tickBadSend_runUse (s : State) : (tickBadSend s).runUse = s.runUse := by simp [tickBadSend]

@[simp] theorem tickDiscard_runUse (s : State) : (tickDiscard s).runUse = s.runUse := by simp [tickDiscard]

@[simp] theorem tickSend_runUse (s : State) : (tickSend s).runUse = s.runUse := by
  unfold tickSend
  split <;> simp

@[simp] theorem tickAttempt_runUse (s : State) : (tickAttempt s).runUse = s.runUse := by
  unfold tickAttempt
  split <;> simp

@[simp] theorem tickTakeHeader_runUse (n : Nat) (data : List Byte) (s : State) :
    (tickTakeHeader n data s).runUse = s.runUse := by
  unfold tickTakeHeader
  simp only
  split <;> simp

@[simp] theorem tickFirst_runUse (s : State) : (tickFirst s).runUse = s.runUse := by
  unfold tickFirst
  split
  · split <;> simp
  · simp

theorem tickAccumulate_runUse {s t : State} (h : tickAccumulate s = .next t) : t.runUse = s.runUse := by
  obtain ⟨_, _, _, -, -, rfl, ⟨-, rfl⟩ | ⟨-, rfl⟩⟩ := tickAccumulate_next h <;> simp

theorem tickTakePayload_runUse {n : Nat} {data : List Byte} {s t : State} (h : tickTakePayload n data s = .next t) :
    t.runUse = s.runUse := by
  obtain ⟨_, rfl, ⟨-, rfl⟩ | ⟨-, rfl⟩⟩ := tickTakePayload_next h <;> simp

theorem tickHeader_runUse {s t : State} (h : tickHeader s = .next t) : t.runUse = s.runUse := by
  obtain rfl | ⟨-, rfl⟩ | ⟨l, -, -, hpayload⟩ := tickHeader_next h
  · simp
  · simp
  · exact (tickAccumulate_runUse hpayload).trans (by simp)

/-- No micro-step notes a use: what the operation uses was noted as it was issued. -/
theorem microStep_runUse {m : Micro} {s t : State} (h : microStep m s = .next t) : t.runUse = s.runUse := by
  cases hwf : s.cfg.wf with
  | false => rw [microStep_of_broken hwf] at h; cases h
  | true =>
    simp only [microStep, hwf, Bool.true_eq_false, if_false] at h
    cases m
    case tickPayloadPublish => exact tickTakePayload_runUse h
    all_goals cases h; simp

/-! ### What an operation notes -/

theorem portRefusal_of_gateOf {i : Instr} {s : State} (h : gateOf i s = none) :
    portRefusal s.runUse s.cur.port (accessOf i) = none := by
  cases i with
  | sysInit => exact portRefusal_tickPort.2 (gateInit_eq_none.1 h).2
  | _ => exact (gate_eq_none.1 h).2.2

/-- Every operation but SYS.INIT, which begins another run, notes its own access and nothing else. -/
theorem Ran.runUse {i : Instr} {s t : State} (h : Ran s i t) (hsys : i ≠ .sysInit) :
    t.runUse = s.runUse.note s.cur.port (accessOf i) := by
  cases h with
  | sysInit => exact absurd rfl hsys
  | raTickHeader _ _ _ h => exact tickHeader_runUse h
  | raTickPayload _ _ _ h => exact tickAccumulate_runUse h
  | txSendStart _ _ _ _ _ _ ha | txSend _ _ _ _ _ _ ha => subst ha; simp [accessOf, RunUse.note]
  | _ => simp [accessOf, RunUse.note]

/-- The port table admits a read of CH_OUT only to the consumer already bound. -/
theorem note_keeps_outConsumer {u : RunUse} {p q : Port} {a : Access} (h : portRefusal u p a = none)
    (hq : u.outConsumer = some q) : (u.note p a).outConsumer = some q := by
  by_cases ha : a = .consume .chOut
  · subst ha
    rcases portRefusal_consume_out.1 h with hfree | hbound
    · rw [hfree] at hq; cases hq
    · exact hbound.symm.trans hq
  · rw [note_outConsumer u p ha, hq]

/-- The port table keeps RA.TICK and a direct read of CH_IN out of one run. -/
theorem note_consumers_exclusive {u : RunUse} {p : Port} {a : Access} (h : portRefusal u p a = none)
    (hu : ¬ (u.tick = true ∧ u.directIn = true)) :
    ¬ ((u.note p a).tick = true ∧ (u.note p a).directIn = true) := by
  cases a with
  | tick => simp [RunUse.note, (portRefusal_tick.1 h).2]
  | consume ch =>
    cases ch with
    | chIn => simp [RunUse.note, (portRefusal_consume_in.1 h).2]
    | chOut => exact hu
  | produce ch => cases ch <;> exact hu
  | _ => exact hu

/-- The port table keeps RX.CAPTURE and a direct write of CH_OUT out of one run. -/
theorem note_producers_exclusive {u : RunUse} {p : Port} {a : Access} (h : portRefusal u p a = none)
    (hu : ¬ (u.capture = true ∧ u.directOut = true)) :
    ¬ ((u.note p a).capture = true ∧ (u.note p a).directOut = true) := by
  cases a with
  | capture => simp [RunUse.note, (portRefusal_capture.1 h).2]
  | produce ch =>
    cases ch with
    | chIn => exact hu
    | chOut => simp [RunUse.note, (portRefusal_produce_out.1 h).2]
  | consume ch => cases ch <;> exact hu
  | _ => exact hu

/-! ### What a step notes -/

theorem Ran.gateOf {i : Instr} {s t : State} (h : Ran s i t) : gateOf i s = none := by
  cases h <;> assumption

/-- A step leaves the uses of the run alone and issues nothing, or issues one operation, which the port table admits
and which is noted. -/
theorem step_runUse {s t : State} (h : step s = .next t) (hsys : ¬ Issues s .sysInit) :
    (t.runUse = s.runUse ∧ ∀ j, ¬ Issues s j) ∨
    ∃ p i, StepsOn s p ∧ (∀ j, Issues s j ↔ j = i) ∧ portRefusal s.runUse p (accessOf i) = none ∧
      t.runUse = s.runUse.note p (accessOf i) := by
  cases step_next h with
  | idle hs hno =>
    obtain ⟨-, -, -, -, huse, -⟩ := hs
    exact .inl ⟨huse, hno⟩
  | resume q u _ _ hs _ hno hmicro =>
    obtain ⟨-, -, -, -, huse, -⟩ := hs
    exact .inl ⟨(microStep_runUse hmicro).trans huse, hno⟩
  | issue p c cs i u hp _ _ hs hup _ hiss hran =>
    obtain ⟨-, -, -, -, huse, -⟩ := hs
    subst hup
    rw [← huse]
    exact .inr ⟨_, i, hp, hiss, portRefusal_of_gateOf hran.gateOf,
      hran.runUse fun e => hsys ((hiss _).2 e.symm)⟩

/-- Settles O11: a step that issues nothing leaves the uses alone, and what an operation notes keeps the port table's
exclusions. -/
theorem channelEndsStayBound : Obligations.ChannelEndsStayBound := by
  intro s t h hsys
  rcases step_runUse h hsys with ⟨huse, hno⟩ | ⟨p, i, hp, hiss, hadmit, huse⟩
  · rw [huse]
    exact ⟨fun _ hq => hq, fun _ _ _ hj => absurd hj (hno _), fun _ _ hj => absurd hj (hno _),
      fun hj => absurd hj (hno _), fun _ hj => absurd hj (hno _), fun hj => absurd hj (hno _),
      fun _ hj => absurd hj (hno _), fun _ hj => absurd hj (hno _), fun _ hj => absurd hj (hno _), id, id⟩
  · have noted {j : Instr} (hj : Issues s j) : t.runUse = s.runUse.note p (accessOf j) := (hiss j).1 hj ▸ huse
    refine ⟨fun q hq => huse ▸ note_keeps_outConsumer hadmit hq, ?_, ?_,
      fun hj => congrArg RunUse.tick (noted hj), fun _ hj => congrArg RunUse.directIn (noted hj),
      fun hj => congrArg RunUse.directIn (noted hj), fun _ hj => congrArg RunUse.capture (noted hj),
      fun _ hj => congrArg RunUse.directOut (noted hj), fun _ hj => congrArg RunUse.directOut (noted hj),
      fun hu => huse ▸ note_consumers_exclusive hadmit hu, fun hu => huse ▸ note_producers_exclusive hadmit hu⟩
    · intro q max hq hj
      rw [noted hj, hp.port_eq hq]; rfl
    · intro q hq hj
      rw [noted hj, hp.port_eq hq]; rfl

end Sys2Proof.Machine
end

section
/-! The channels are queues (20_memory.md R65): whatever a step does, a channel gains bytes behind those it holds or
gives up some of the oldest. -/

namespace Sys2Proof.Machine

/-! ### Bytes gained and bytes given up -/

/-- From `s` to `t` every channel gives up nothing but some of its oldest bytes. -/
def GivesUpOldest (s t : State) : Prop :=
  ∀ ch, ∃ n, held t.cfg t.core ch = (held s.cfg s.core ch).drop n

/-- From `s` to `t` every channel gains nothing but bytes behind those it holds. -/
def GainsBehind (s t : State) : Prop :=
  ∀ ch, ∃ xs, held t.cfg t.core ch = held s.cfg s.core ch ++ xs

/-- From `s` to `t` every channel does one of the two. -/
def KeepsQueues (s t : State) : Prop :=
  ∀ ch, (∃ xs, held t.cfg t.core ch = held s.cfg s.core ch ++ xs) ∨
    ∃ n, held t.cfg t.core ch = (held s.cfg s.core ch).drop n

theorem GainsBehind.keepsQueues {s t : State} (h : GainsBehind s t) : KeepsQueues s t := fun ch => .inl (h ch)

theorem GivesUpOldest.keepsQueues {s t : State} (h : GivesUpOldest s t) : KeepsQueues s t := fun ch => .inr (h ch)

theorem GivesUpOldest.trans {s u t : State} (h : GivesUpOldest s u) (h' : GivesUpOldest u t) :
    GivesUpOldest s t := fun ch => by
  obtain ⟨m, hm⟩ := h ch
  obtain ⟨n, hn⟩ := h' ch
  exact ⟨m + n, by rw [hn, hm, List.drop_drop]⟩

/-- A piece that leaves the configuration and the channels as they were. -/
theorem givesUpOldest_of_chan_eq {s t : State} (hchan : ∀ ch, t.core.chan ch = s.core.chan ch := by simp)
    (hcfg : t.cfg = s.cfg := by simp) : GivesUpOldest s t := fun ch =>
  ⟨0, by rw [List.drop_zero, hcfg, held_congr (hchan ch)]⟩

/-- A channel emptied gives up all it held. -/
theorem held_of_empty {cfg : Config} {k : CoreState} {ch : Chan} (h : k.chan ch = ⟨[], 0, 0⟩) :
    held cfg k ch = [] := by simp [held, occ, ringOcc, h]

theorem exists_drop_eq_nil {α : Type} (l : List α) : ∃ n, [] = l.drop n := ⟨l.length, List.drop_length.symm⟩

theorem givesUpOldest_emptyChan (s : State) (ch : Chan) :
    GivesUpOldest s (s.setCore (s.core.setChan ch ⟨[], 0, 0⟩)) := fun c => by
  by_cases hc : c = ch
  · subst hc
    rw [held_of_empty (by simp)]
    exact exists_drop_eq_nil _
  · exact ⟨0, by rw [List.drop_zero]; exact held_congr (CoreState.setChan_chan_of_ne hc _ _) _⟩

theorem givesUpOldest_configure (s : State) (c : Config) : GivesUpOldest s (s.configure c) := fun ch => by
  rw [held_of_empty (by cases ch <;> rfl)]
  exact exists_drop_eq_nil _

/-- A read gives up the oldest bytes of its channel. -/
theorem givesUpOldest_readPublish {s : State} {ch : Chan} {n : Nat} (h : ChannelOk s.cfg s.core ch)
    (hn : n ≤ occ s.cfg s.core ch) : GivesUpOldest s (s.setCore (readPublish s.cfg s.core ch n)) := fun c => by
  by_cases hc : c = ch
  · subst hc
    exact ⟨n, held_readPublish h hn⟩
  · exact ⟨0, by rw [List.drop_zero]; exact held_congr (readPublish_chan_of_ne hc ..) _⟩

theorem givesUpOldest_receive {s : State} {n : Nat} {data : List Byte} (h : ChannelOk s.cfg s.core .chIn)
    (hn : n ≤ occ s.cfg s.core .chIn) : GivesUpOldest s (s.setCore (s.core.receive s.cfg n data)) :=
  (givesUpOldest_readPublish h hn).trans givesUpOldest_of_chan_eq

/-- The snapshot of a read covers bytes that are there. -/
theorem readSnap_le_occ (cfg : Config) (k : CoreState) (ch : Chan) (max : Nat) :
    readSnap cfg k ch max ≤ occ cfg k ch := Nat.min_le_right _ _

/-- A write adds the accepted bytes behind those its channel holds. -/
theorem held_gains_of_writeStore {cfg : Config} {k : CoreState} {ch : Chan} {bs : List Byte}
    (h : ChannelOk cfg k ch) (hbs : bs.length ≤ free cfg k ch) (c : Chan) :
    ∃ xs, held cfg (writeStore cfg k ch bs) c = held cfg k c ++ xs := by
  by_cases hc : c = ch
  · subst hc
    exact ⟨bs.map some, held_writeStore h hbs⟩
  · exact ⟨[], by rw [List.append_nil, held_congr (writeStore_chan_of_ne hc ..)]⟩

theorem held_gains_of_writeChan {cfg : Config} {k : CoreState} {ch : Chan} (h : ChannelOk cfg k ch)
    (data : List Byte) (c : Chan) : ∃ xs, held cfg (writeChan cfg k ch data).2 c = held cfg k c ++ xs := by
  rcases (writeChan_cases cfg k ch data).2 with ⟨hfits, hw⟩ | ⟨-, hw⟩ <;> rw [hw]
  · exact held_gains_of_writeStore h hfits c
  · rw [held_congr (CoreState.bump_chan ..)]
    exact held_gains_of_writeStore h (by simp) c

/-! ### The parts of an operation -/

theorem givesUpOldest_finish (s : State) (r : PortResult) : GivesUpOldest s (s.finish r) := givesUpOldest_of_chan_eq

theorem givesUpOldest_endTick (s : State) : GivesUpOldest s (endTick s) := givesUpOldest_finish _ _

theorem givesUpOldest_pause (s : State) (m : Micro) : GivesUpOldest s (s.pause m) := givesUpOldest_of_chan_eq

theorem givesUpOldest_noteUse (s : State) (a : Access) : GivesUpOldest s (s.noteUse a) := givesUpOldest_of_chan_eq

theorem givesUpOldest_afterOperands (s : State) (n : Nat) : GivesUpOldest s (s.afterOperands n) :=
  givesUpOldest_of_chan_eq

theorem givesUpOldest_sendAttempt (payload : List Byte) (s : State) :
    GivesUpOldest s (sendAttempt payload s).2 := by
  refine givesUpOldest_of_chan_eq (fun ch => ?_) (tickKeeps_sendAttempt payload s).cfg
  rcases sendAttempt_cases payload s with ⟨-, h⟩ | ⟨-, -, hcore, -⟩
  · rw [h]
  · rw [hcore]
    cases ch <;> rfl

theorem givesUpOldest_endSend (r : SendResult) (s : State) : GivesUpOldest s (endSend r s) :=
  givesUpOldest_of_chan_eq (by simp [endSend, sendCount]) (by simp [endSend, sendCount])

theorem givesUpOldest_endRead {s : State} {ch : Chan} {n : Nat} (h : ChannelOk s.cfg s.core ch)
    (hn : n ≤ occ s.cfg s.core ch) (data : List Byte) : GivesUpOldest s (endRead ch n data s) :=
  (givesUpOldest_readPublish h hn).trans (givesUpOldest_finish _ _)

theorem givesUpOldest_endGetb {s : State} {ch : Chan} (h : ChannelOk s.cfg s.core ch)
    (hn : 1 ≤ occ s.cfg s.core ch) (b : Byte) : GivesUpOldest s (endGetb ch b s) :=
  (givesUpOldest_readPublish h hn).trans (givesUpOldest_finish _ _)

/-! ### The tick -/

theorem givesUpOldest_tickDiscard (s : State) : GivesUpOldest s (tickDiscard s) :=
  givesUpOldest_of_chan_eq (by simp [tickDiscard, endTick]) (by simp [tickDiscard, endTick])

theorem givesUpOldest_tickCount (r : SendResult) (s : State) : GivesUpOldest s (tickCount r s) :=
  givesUpOldest_of_chan_eq (by simp [tickCount, sendCount, endTick]) (by simp [tickCount, sendCount, endTick])

theorem givesUpOldest_tickBadSend (s : State) : GivesUpOldest s (tickBadSend s) :=
  givesUpOldest_of_chan_eq (by simp [tickBadSend, endTick]) (by simp [tickBadSend, endTick])

theorem givesUpOldest_tickSend (s : State) : GivesUpOldest s (tickSend s) := by
  unfold tickSend
  split
  · exact givesUpOldest_tickBadSend s
  · exact (givesUpOldest_sendAttempt _ s).trans (givesUpOldest_tickCount _ _)

theorem givesUpOldest_tickAttempt (s : State) : GivesUpOldest s (tickAttempt s) := by
  unfold tickAttempt
  split
  · exact givesUpOldest_tickBadSend s
  · exact (givesUpOldest_sendAttempt _ s).trans (givesUpOldest_pause _ _)

theorem givesUpOldest_tickFirst (s : State) : GivesUpOldest s (tickFirst s) := by
  unfold tickFirst
  split
  · split
    · exact givesUpOldest_endTick s
    · exact givesUpOldest_pause _ _
  · exact givesUpOldest_pause _ _

theorem givesUpOldest_tickAccumulate {s t : State} (h : ChannelOk s.cfg s.core .chIn)
    (ht : tickAccumulate s = .next t) : GivesUpOldest s t := by
  obtain ⟨n, data, _, hn, -, rfl, hend⟩ := tickAccumulate_next ht
  have hread := givesUpOldest_receive (data := data) h (hn ▸ readSnap_le_occ ..)
  rcases hend with ⟨-, rfl⟩ | ⟨-, rfl⟩
  · exact hread.trans (givesUpOldest_tickSend _)
  · exact hread.trans (givesUpOldest_endTick _)

theorem givesUpOldest_tickTakePayload {s t : State} {n : Nat} {data : List Byte}
    (h : ChannelOk s.cfg s.core .chIn) (hn : n ≤ occ s.cfg s.core .chIn)
    (ht : tickTakePayload n data s = .next t) : GivesUpOldest s t := by
  obtain ⟨_, rfl, hend⟩ := tickTakePayload_next ht
  have hread := givesUpOldest_receive (data := data) h hn
  rcases hend with ⟨-, rfl⟩ | ⟨-, rfl⟩
  · exact hread.trans (givesUpOldest_pause _ _)
  · exact hread.trans (givesUpOldest_endTick _)

/-- A whole tick may read twice, the header and then the payload. -/
theorem givesUpOldest_tickHeader {s t : State} (h : ChannelOk s.cfg s.core .chIn)
    (ht : tickHeader s = .next t) : GivesUpOldest s t := by
  obtain rfl | ⟨hocc, rfl⟩ | ⟨l, hocc, -, hpayload⟩ := tickHeader_next ht
  · exact givesUpOldest_endTick s
  · exact (givesUpOldest_readPublish h hocc).trans (givesUpOldest_tickDiscard _)
  · have hafter := (h.readPublish hocc).congr (CoreState.startPacket_chan _ l .chIn)
    exact ((givesUpOldest_readPublish h hocc).trans givesUpOldest_of_chan_eq).trans
      (givesUpOldest_tickAccumulate hafter hpayload)

theorem givesUpOldest_tickTakeHeader {s : State} {n : Nat} (h : ChannelOk s.cfg s.core .chIn)
    (hn : n ≤ occ s.cfg s.core .chIn) (data : List Byte) : GivesUpOldest s (tickTakeHeader n data s) := by
  have hread := givesUpOldest_readPublish h hn
  unfold tickTakeHeader
  simp only
  split
  · exact hread.trans (givesUpOldest_pause _ _)
  · exact hread.trans givesUpOldest_of_chan_eq

/-! ### Micro-steps, operations, steps -/

/-- A micro-step gives up bytes only in publishing a read, whose snapshot covers bytes that are there. -/
theorem givesUpOldest_microStep {s t : State} {m : Micro} (hok : CoreOk s.cfg s.core) (hm : MicroOk s m)
    (h : microStep m s = .next t) : GivesUpOldest s t := by
  obtain ⟨hchan, -⟩ := hok
  cases hwf : s.cfg.wf with
  | false => rw [microStep_of_broken hwf] at h; cases h
  | true =>
    simp only [microStep, hwf, Bool.true_eq_false, if_false] at h
    cases m
    case readPublish ch n data =>
      cases h
      obtain ⟨⟨hn, -⟩, -⟩ := hm
      exact givesUpOldest_endRead (hchan ch) hn data
    case getbPublish ch b =>
      cases h
      obtain ⟨⟨hn, -⟩, -⟩ := hm
      exact givesUpOldest_endGetb (hchan ch) hn b
    case tickHeaderPublish n data =>
      cases h
      obtain ⟨rfl, -, ⟨hn, -⟩, -⟩ := hm
      exact givesUpOldest_tickTakeHeader (hchan .chIn) hn data
    case tickPayloadPublish n data =>
      obtain ⟨⟨hn, -⟩, -⟩ := hm
      exact givesUpOldest_tickTakePayload (hchan .chIn) hn h
    case tickBadLength => cases h; exact givesUpOldest_tickDiscard s
    case tickSend => cases h; exact givesUpOldest_tickAttempt s
    case tickCount r => cases h; exact givesUpOldest_tickCount r s
    case sendCount r => cases h; exact givesUpOldest_endSend r s
    all_goals cases h; exact givesUpOldest_pause _ _

/-- An operation in a CORE whose channels are good. The writes gain bytes, the reads and the tick give some up, an
initialisation gives up all, and every other operation leaves the channels alone. -/
theorem Ran.keepsQueues {i : Instr} {s t : State} (h : Ran s i t) (hwf : s.cfg.wf = true)
    (hok : i ≠ .sysInit → ∀ ch, ChannelOk s.cfg s.core ch) : KeepsQueues s t := by
  cases h with
  | sysInit => exact ((givesUpOldest_configure s _).trans (givesUpOldest_finish _ _)).keepsQueues
  | chInit ch => exact ((givesUpOldest_emptyChan s ch).trans (givesUpOldest_finish _ _)).keepsQueues
  | chWrite ch len =>
    refine GainsBehind.keepsQueues fun c => ?_
    simpa using held_gains_of_writeChan (hok (by simp) ch) (s.operandBytes len.toNat) c
  | chPutb ch b _ hroom =>
    have hfree : [b].length ≤ free s.cfg s.core ch := one_le_free (hok (by simp) ch) hwf hroom
    refine GainsBehind.keepsQueues fun c => ?_
    simpa using held_gains_of_writeStore (hok (by simp) ch) hfree c
  | rxCapture count data =>
    refine GainsBehind.keepsQueues fun c => ?_
    simpa [held_congr (CoreState.bump_chan ..)] using held_gains_of_writeChan (hok (by simp) .chOut) data c
  | chRead ch max =>
    have hread := givesUpOldest_endRead (s := s.noteUse (.consume ch)) (hok (by simp) ch)
      (readSnap_le_occ _ _ _ max.toNat)
    exact ((givesUpOldest_noteUse s _).trans (hread _)).keepsQueues
  | chGetb ch _ he =>
    have hch := hok (by simp) ch
    have hread := givesUpOldest_endGetb (s := s.noteUse (.consume ch)) hch (one_le_occ hch he)
    exact ((givesUpOldest_noteUse s _).trans (hread _)).keepsQueues
  | raTickStart => exact ((givesUpOldest_noteUse s _).trans (givesUpOldest_tickFirst _)).keepsQueues
  | raTickHeader _ _ _ ht =>
    exact ((givesUpOldest_noteUse s _).trans (givesUpOldest_tickHeader (hok (by simp) .chIn) ht)).keepsQueues
  | raTickPayload _ _ _ ht =>
    exact ((givesUpOldest_noteUse s _).trans (givesUpOldest_tickAccumulate (hok (by simp) .chIn) ht)).keepsQueues
  | txSendStart _ _ _ _ _ _ ha =>
    subst ha
    exact (((givesUpOldest_afterOperands s _).trans (givesUpOldest_sendAttempt _ _)).trans
      (givesUpOldest_pause _ _)).keepsQueues
  | txSend _ _ _ _ _ _ ha =>
    subst ha
    exact (((givesUpOldest_afterOperands s _).trans (givesUpOldest_sendAttempt _ _)).trans
      (givesUpOldest_endSend _ _)).keepsQueues
  | txDone | cntReset =>
    exact (givesUpOldest_of_chan_eq fun ch => by cases ch <;> simp [CoreState.chan]).keepsQueues
  | chAvail | chReadStart | chGetbEmpty | chGetbStart | chPutbFull | frmBuild | frmParse | rxCaptureReject
  | txSendBad | cntRead => exact GivesUpOldest.keepsQueues givesUpOldest_of_chan_eq

/-- An operation in progress has good snapshots, in a good architectural state. -/
theorem Inv.of_inProgress {s : State} {q : InProgress} (h : Inv s) (hq : s.inProgress = some q) :
    CoreOk s.cfg s.core ∧ MicroOk s q.next := by
  obtain ⟨-, hgood, hraw⟩ := h
  have hinit : s.initialised = true := by
    by_contra hno
    rw [hraw (Bool.of_not_eq_true hno)] at hq
    cases hq
  obtain ⟨hok, hprog⟩ := hgood hinit
  simp only [ProgressOk, hq] at hprog
  exact ⟨hok, hprog.2⟩

/-- Settles O25: the step was idle, went on with the operation in progress, or issued one. -/
theorem channelsAreQueues : Obligations.ChannelsAreQueues := by
  intro s t ch hs h
  have hqueues : KeepsQueues s t := by
    cases step_next h with
    | idle hst =>
      obtain ⟨hcore, hcfg, -⟩ := hst
      exact (givesUpOldest_of_chan_eq (fun c => by rw [hcore]) hcfg).keepsQueues
    | resume q u hq _ hst _ _ hmicro =>
      have ⟨hcore, hcfg, hprog, _⟩ := hst
      obtain ⟨hok, hm⟩ := (hs.starts hst).of_inProgress (hprog.trans hq)
      have hgives := givesUpOldest_microStep hok hm hmicro
      simpa only [KeepsQueues, hcore, hcfg] using hgives.keepsQueues
    | issue p c cs i u _ _ _ hst _ _ _ hran =>
      have ⟨hcore, hcfg, _⟩ := hst
      obtain ⟨hwf, hgood, -⟩ := hs.starts hst
      have hran' := hran.keepsQueues hwf fun hsys => (hgood (hran.initialised hsys)).1.1
      simpa only [KeepsQueues, hcore, hcfg] using hran'
  exact hqueues ch

end Sys2Proof.Machine
end

section
/-! The command word by its four fields (30_encoding.md R80, R97): a word is packed from them, a row's mask and
match compare each of them, and the fixed bits of `n` bound it. -/

namespace Sys2Proof

/-! ### A word is its fields -/

theorem fieldOp_and (v w : Word) : fieldOp (v &&& w) = fieldOp v &&& fieldOp w := BitVec.extractLsb'_and
theorem fieldCh_and (v w : Word) : fieldCh (v &&& w) = fieldCh v &&& fieldCh w := BitVec.extractLsb'_and
theorem fieldRsv_and (v w : Word) : fieldRsv (v &&& w) = fieldRsv v &&& fieldRsv w := BitVec.extractLsb'_and
theorem fieldN_and (v w : Word) : fieldN (v &&& w) = fieldN v &&& fieldN w := BitVec.extractLsb'_and

theorem fieldN_toNat (cw : Word) : (fieldN cw).toNat = cw.toNat % 2 ^ 16 := by
  simp [fieldN, BitVec.extractLsb'_toNat]

/-- Two words with the same four fields are one word. -/
theorem eq_iff_fields {v w : Word} :
    v = w ↔ fieldOp v = fieldOp w ∧ fieldCh v = fieldCh w ∧ fieldRsv v = fieldRsv w ∧ fieldN v = fieldN w := by
  constructor
  · rintro rfl
    exact ⟨rfl, rfl, rfl, rfl⟩
  · simp only [← BitVec.toNat_inj, fieldOp, fieldCh, fieldRsv, fieldN, BitVec.extractLsb'_toNat,
      Nat.shiftRight_eq_div_pow]
    omega

/-- A word whose reserved field is 0 is packed from its other fields. -/
theorem packWord_fields {cw : Word} (h : fieldRsv cw = 0) :
    packWord (fieldOp cw) (fieldCh cw) (fieldN cw) = cw := by
  rw [eq_iff_fields, fieldOp_packWord, fieldCh_packWord, fieldRsv_packWord, fieldN_packWord, h]
  exact ⟨rfl, rfl, rfl, rfl⟩

@[simp] theorem chanBit_chanOfBit (b : BitVec 1) : chanBit (chanOfBit b) = b := by
  revert b; decide

theorem fieldCh_eq_one_iff {cw : Word} : fieldCh cw = 1 ↔ fieldCh cw ≠ 0 := by
  generalize fieldCh cw = b
  revert b; decide

/-! ### An operand that fills only the low bits of `n` -/

/-- Taking the low `k` bits of `n` and widening them again loses nothing where the others are 0. -/
theorem setWidth_low {n : Half} {k : Nat} (h : n.toNat < 2 ^ k) : (n.extractLsb' 0 k).setWidth 16 = n := by
  apply BitVec.eq_of_toNat_eq
  simp [Nat.mod_eq_of_lt h, Nat.mod_eq_of_lt n.isLt]

/-- The bits of `n` from `k` on are 0 exactly where `n` is below `2 ^ k`. -/
theorem high_eq_zero_iff {n : Half} {k l : Nat} (hkl : k + l = 16) : n.extractLsb' k l = 0 ↔ n.toNat < 2 ^ k := by
  have hlt : n.toNat / 2 ^ k < 2 ^ l := by
    rw [Nat.div_lt_iff_lt_mul (by positivity), ← pow_add, Nat.add_comm l, hkl]
    exact n.isLt
  rw [← BitVec.toNat_inj, BitVec.extractLsb'_toNat, Nat.shiftRight_eq_div_pow, Nat.mod_eq_of_lt hlt]
  simp [Nat.div_eq_zero_iff]

theorem toNat_extractLow {n : Half} {k : Nat} (h : n.toNat < 2 ^ k) : (n.extractLsb' 0 k).toNat = n.toNat := by
  simp [Nat.mod_eq_of_lt h]

/-- An operand of `k` bits, widened to the field, leaves the bits from `k` on 0. -/
theorem widened_lt {k : Nat} (x : BitVec k) : (x.setWidth 16).toNat < 2 ^ k := by
  rw [BitVec.toNat_setWidth]
  exact (Nat.mod_le _ _).trans_lt x.isLt

theorem low_widened {k : Nat} (hk : k ≤ 16) (x : BitVec k) : (x.setWidth 16).extractLsb' 0 k = x := by
  apply BitVec.eq_of_toNat_eq
  rw [toNat_extractLow (widened_lt x), BitVec.toNat_setWidth_of_le hk]

/-- A mask of the bits from `k` on leaves nothing of `n` exactly where `n` is below `2 ^ k`. -/
theorem and_highMask_eq_zero_iff {n : Half} {k : Nat} :
    n &&& (BitVec.allOnes 16 <<< k) = 0 ↔ n.toNat < 2 ^ k := by
  constructor
  · intro h
    refine Nat.lt_pow_two_of_testBit _ fun i hi => ?_
    rcases Nat.lt_or_ge i 16 with hlt | hge
    · have hbit : (n &&& (BitVec.allOnes 16 <<< k)).getLsbD i = false := by rw [h]; exact BitVec.getLsbD_zero
      rwa [BitVec.getLsbD_and, BitVec.getLsbD_shiftLeft, BitVec.getLsbD_allOnes,
        decide_eq_true hlt, decide_eq_false (Nat.not_lt.2 hi), decide_eq_true (show i - k < 16 by omega),
        Bool.not_false, Bool.and_true, Bool.and_true, Bool.and_true] at hbit
    · exact BitVec.getLsbD_of_ge n i hge
  · intro h
    refine BitVec.eq_of_getLsbD_eq fun i _ => ?_
    rcases Nat.lt_or_ge i k with hlow | hhigh
    · simp [hlow]
    · have hbit : n.getLsbD i = false :=
        Nat.testBit_lt_two_pow (h.trans_le (Nat.pow_le_pow_right (by decide) hhigh))
      simp [hbit]

end Sys2Proof
end

section
/-! The decoder and the encoder are inverse to each other (30_encoding.md R83, R84, R97). -/

namespace Sys2Proof

/-! ### What each part of the decoder accepts -/

theorem withoutChan_eq_ok_iff {cw : Word} {k : Except IllegalWord Instr} {i : Instr} :
    withoutChan cw k = .ok i ↔ fieldCh cw = 0 ∧ k = .ok i := by
  unfold withoutChan
  split <;> simp_all

theorem withoutN_eq_ok_iff {cw : Word} {i j : Instr} : withoutN cw i = .ok j ↔ fieldN cw = 0 ∧ i = j := by
  unfold withoutN
  split <;> simp_all

theorem decodePutb_eq_ok_iff {cw : Word} {i : Instr} :
    decodePutb cw = .ok i ↔
      (fieldN cw).toNat < 2 ^ 8 ∧ .chPutb (chanOfBit (fieldCh cw)) ((fieldN cw).extractLsb' 0 8) = i := by
  rw [← high_eq_zero_iff (l := 8) rfl]
  unfold decodePutb
  split <;> simp_all

theorem decodeCntRead_eq_ok_iff {cw : Word} {i : Instr} :
    decodeCntRead cw = .ok i ↔ (fieldN cw).toNat ≤ 5 ∧ .cntRead ((fieldN cw).extractLsb' 0 3) = i := by
  unfold decodeCntRead
  by_cases hhigh : (fieldN cw).toNat < 2 ^ 3
  · rw [if_pos ((high_eq_zero_iff rfl).2 hhigh), toNat_extractLow hhigh]
    split <;> simp_all
  · rw [if_neg fun h => hhigh ((high_eq_zero_iff rfl).1 h)]
    simp only [reduceCtorEq, false_iff, not_and]
    omega

theorem decode_eq_ok_iff {cw : Word} {i : Instr} :
    decode cw = .ok i ↔ fieldRsv cw = 0 ∧ decodeOp cw = .ok i := by
  unfold decode
  split <;> simp_all

/-! ### Decoding a packed word -/

/-- The reserved field of a packed word is 0, so its row alone decides. -/
theorem decode_packWord (op : BitVec 5) (ch : BitVec 1) (n : Half) :
    decode (packWord op ch n) = decodeOp (packWord op ch n) :=
  if_pos (fieldRsv_packWord op ch n)

theorem decodePutb_packWord (op : BitVec 5) (ch : BitVec 1) (b : Byte) :
    decodePutb (packWord op ch (b.setWidth 16)) = .ok (.chPutb (chanOfBit ch) b) := by
  rw [decodePutb_eq_ok_iff, fieldN_packWord, fieldCh_packWord, low_widened (by decide)]
  exact ⟨widened_lt b, rfl⟩

theorem decodeCntRead_packWord (op : BitVec 5) (ch : BitVec 1) {index : BitVec 3} (h : index.toNat ≤ 5) :
    decodeCntRead (packWord op ch (index.setWidth 16)) = .ok (.cntRead index) := by
  rw [decodeCntRead_eq_ok_iff, fieldN_packWord, low_widened (by decide), BitVec.toNat_setWidth_of_le (by decide)]
  exact ⟨h, rfl⟩

/-- Settles O1, operation by operation: the word carries the row's `op`, which picks the row, and the row's checks
hold of the operands packed. -/
theorem decodeEncodeRoundTrip : Obligations.DecodeEncodeRoundTrip := by
  intro i hwf
  cases i with
  | sysInit | frmBuild | raTick | txDone | cntReset =>
    simp [encode, decode_packWord, decodeOp, fieldOp_packWord, fieldCh_packWord, fieldN_packWord,
      withoutChan_eq_ok_iff, withoutN_eq_ok_iff]
  | chInit ch | chAvail ch | chGetb ch =>
    simp [encode, decode_packWord, decodeOp, fieldOp_packWord, fieldCh_packWord, fieldN_packWord, withoutN_eq_ok_iff]
  | chRead ch n | chWrite ch n =>
    simp [encode, decode_packWord, decodeOp, fieldOp_packWord, fieldCh_packWord, fieldN_packWord]
  | frmParse n | rxCapture n | txSend n =>
    simp [encode, decode_packWord, decodeOp, fieldOp_packWord, fieldCh_packWord, fieldN_packWord,
      withoutChan_eq_ok_iff]
  | chPutb ch b => simp [encode, decode_packWord, decodeOp, fieldOp_packWord, decodePutb_packWord]
  | cntRead index =>
    have hindex : index.toNat ≤ 5 := of_decide_eq_true hwf
    simp [encode, decode_packWord, decodeOp, fieldOp_packWord, fieldCh_packWord, withoutChan_eq_ok_iff,
      decodeCntRead_packWord _ _ hindex]

/-! ### Packing what was decoded -/

/-- What `decodeOp` accepts is packed again into the fields it read. -/
theorem encode_of_decodeOp {cw : Word} {i : Instr} (h : decodeOp cw = .ok i) :
    encode i = packWord (fieldOp cw) (fieldCh cw) (fieldN cw) ∧ i.wf = true := by
  have hop {k : Nat} (hk : (fieldOp cw).toNat = k) : fieldOp cw = BitVec.ofNat 5 k := by simp [← hk]
  unfold decodeOp at h
  simp only at h
  split at h <;>
    simp only [withoutChan_eq_ok_iff, withoutN_eq_ok_iff, decodePutb_eq_ok_iff, decodeCntRead_eq_ok_iff,
      Except.ok.injEq, reduceCtorEq] at h
  -- SYS.INIT, FRM.BUILD, RA.TICK, TX.DONE, CNT.RESET
  case h_1 hk | h_8 hk | h_11 hk | h_13 hk | h_15 hk =>
    obtain ⟨hch, hn, rfl⟩ := h
    rw [hop hk, hch, hn]
    exact ⟨rfl, rfl⟩
  -- CH.INIT, CH.AVAIL, CH.GETB
  case h_2 hk | h_3 hk | h_6 hk =>
    obtain ⟨hn, rfl⟩ := h
    simp [encode, Instr.wf, hop hk, hn]
  -- CH.READ, CH.WRITE
  case h_4 hk | h_5 hk =>
    subst h
    simp [encode, Instr.wf, hop hk]
  -- CH.PUTB
  case h_7 hk =>
    obtain ⟨hn, rfl⟩ := h
    simp [encode, Instr.wf, hop hk, setWidth_low hn]
  -- FRM.PARSE, RX.CAPTURE, TX.SEND
  case h_9 hk | h_10 hk | h_12 hk =>
    obtain ⟨hch, rfl⟩ := h
    simp [encode, Instr.wf, hop hk, hch]
  -- CNT.READ
  case h_14 hk =>
    obtain ⟨hch, hn, rfl⟩ := h
    have hlow : (fieldN cw).toNat < 2 ^ 3 := by omega
    simp [encode, Instr.wf, hop hk, hch, setWidth_low hlow, toNat_extractLow hlow, hn]

/-- Settles O2: what is decoded packs again into the fields read, and those are the word. -/
theorem decodedWordIsItsEncoding : Obligations.DecodedWordIsItsEncoding := by
  intro cw i h
  obtain ⟨hrsv, hop⟩ := decode_eq_ok_iff.1 h
  obtain ⟨henc, hwf⟩ := encode_of_decodeOp hop
  exact ⟨henc.trans (packWord_fields hrsv), hwf⟩

/-- Settles O5, by evaluating the decoder on each word. -/
theorem writtenWordsDecode : Obligations.WrittenWordsDecode :=
  ⟨rfl, rfl, rfl, rfl, rfl, rfl, rfl⟩

end Sys2Proof
end

section
/-! The illegal words (30_encoding.md R93) and the opcode map (R83, R84). -/

namespace Sys2Proof

/-! ### The illegal words -/

/-- The values of `op` that no row has. -/
abbrev ReservedOp (op : Nat) : Prop := op = 0x07 ∨ op = 0x0B ∨ op = 0x0F ∨ 0x12 ≤ op

/-- The `op` of the rows with `ch` = 0. -/
abbrev opsWithoutChan : List Nat := [0x00, 0x08, 0x09, 0x0A, 0x0C, 0x0D, 0x0E, 0x10, 0x11]

/-- The `op` of the rows with `n` = 0. -/
abbrev opsWithoutN : List Nat := [0x00, 0x01, 0x02, 0x05, 0x08, 0x0C, 0x0E, 0x11]

/-- R93's list of the illegal words; `decode_error_iff` ties it to the decoder. -/
def Illegal (cw : Word) : Prop :=
  ReservedOp (fieldOp cw).toNat ∨
    fieldRsv cw ≠ 0 ∨
    (fieldCh cw = 1 ∧ (fieldOp cw).toNat ∈ opsWithoutChan) ∨
    (fieldN cw ≠ 0 ∧ (fieldOp cw).toNat ∈ opsWithoutN) ∨
    (255 < (fieldN cw).toNat ∧ (fieldOp cw).toNat = 0x06) ∨
    (5 < (fieldN cw).toNat ∧ (fieldOp cw).toNat = 0x10)

theorem withoutChan_error_iff {cw : Word} {k : Except IllegalWord Instr} :
    (∃ e, withoutChan cw k = .error e) ↔ fieldCh cw = 1 ∨ ∃ e, k = .error e := by
  rw [fieldCh_eq_one_iff]
  unfold withoutChan
  split <;> simp_all

theorem withoutN_error_iff {cw : Word} {i : Instr} : (∃ e, withoutN cw i = .error e) ↔ fieldN cw ≠ 0 := by
  unfold withoutN
  split <;> simp_all

theorem exists_error_iff {x : Except IllegalWord Instr} : (∃ e, x = .error e) ↔ ∀ i, x ≠ .ok i := by
  cases x <;> simp

theorem decodePutb_error_iff {cw : Word} : (∃ e, decodePutb cw = .error e) ↔ 255 < (fieldN cw).toNat := by
  simp [exists_error_iff, decodePutb_eq_ok_iff, Nat.succ_le_iff]

theorem decodeCntRead_error_iff {cw : Word} : (∃ e, decodeCntRead cw = .error e) ↔ 5 < (fieldN cw).toNat := by
  simp [exists_error_iff, decodeCntRead_eq_ok_iff]

/-- Row by row of `decodeOp`, the checks that fail are those of R93's list. -/
theorem decodeOp_error_iff {cw : Word} (h : fieldRsv cw = 0) : (∃ e, decodeOp cw = .error e) ↔ Illegal cw := by
  unfold decodeOp
  simp only
  split
  case h_16 =>
    have hreserved : ReservedOp (fieldOp cw).toNat := by
      simp only [imp_false] at *
      omega
    exact iff_of_true ⟨_, rfl⟩ (.inl hreserved)
  all_goals
    next hk =>
    simp [withoutChan_error_iff, withoutN_error_iff, decodePutb_error_iff, decodeCntRead_error_iff, Illegal, hk, h]

theorem decode_error_iff {cw : Word} : (∃ e, decode cw = .error e) ↔ Illegal cw := by
  by_cases h : fieldRsv cw = 0
  · rw [← decodeOp_error_iff h, decode, if_pos h]
  · rw [decode, if_neg h]
    exact iff_of_true ⟨_, rfl⟩ (.inr (.inl h))

/-- A word that is not illegal decodes, and only such a word. -/
theorem decode_ok_iff {cw : Word} : (∃ i, decode cw = .ok i) ↔ ¬ Illegal cw := by
  rw [← decode_error_iff]
  cases decode cw <;> simp

/-! ### The rows of the opcode map -/

theorem OpcodeRow.fits_iff {r : OpcodeRow} {cw : Word} :
    r.fits cw = true ↔
      fieldOp cw &&& fieldOp r.mask = fieldOp r.pattern ∧ fieldCh cw &&& fieldCh r.mask = fieldCh r.pattern ∧
        fieldRsv cw &&& fieldRsv r.mask = fieldRsv r.pattern ∧ fieldN cw &&& fieldN r.mask = fieldN r.pattern := by
  rw [OpcodeRow.fits, decide_eq_true_iff, eq_iff_fields, fieldOp_and, fieldCh_and, fieldRsv_and, fieldN_and]

theorem fits_packWord {r : OpcodeRow} {op : BitVec 5} {ch : BitVec 1} {n : Half} :
    r.fits (packWord op ch n) = true ↔
      op &&& fieldOp r.mask = fieldOp r.pattern ∧ ch &&& fieldCh r.mask = fieldCh r.pattern ∧
        0 &&& fieldRsv r.mask = fieldRsv r.pattern ∧ n &&& fieldN r.mask = fieldN r.pattern := by
  rw [OpcodeRow.fits_iff, fieldOp_packWord, fieldCh_packWord, fieldRsv_packWord, fieldN_packWord]

/-- The row of every operation stands in the map, and the operation's word fits it. -/
theorem encode_fits (i : Instr) : ∃ r ∈ opcodeMap, r.fits (encode i) = true ∧ r.mnemonic = i.mnemonic := by
  cases i with
  | chPutb ch b =>
    have hhigh : b.setWidth 16 &&& (BitVec.allOnes 16 <<< 8) = 0 := and_highMask_eq_zero_iff.2 (widened_lt b)
    simpa [opcodeMap, Instr.mnemonic, encode, fits_packWord, fieldOp, fieldCh, fieldRsv, fieldN] using hhigh
  | cntRead index =>
    have hhigh : index.setWidth 16 &&& (BitVec.allOnes 16 <<< 3) = 0 := and_highMask_eq_zero_iff.2 (widened_lt index)
    simpa [opcodeMap, Instr.mnemonic, encode, fits_packWord, fieldOp, fieldCh, fieldRsv, fieldN] using hhigh
  | _ => simp [opcodeMap, Instr.mnemonic, encode, fits_packWord, fieldOp, fieldCh, fieldRsv, fieldN]

/-- What the masks and matches of the map fix, row by row: `op` and `rsv` whole, and the `ch` bit and the bits of
`n` that R93 names. -/
theorem opcodeMap_fixes : ∀ r ∈ opcodeMap,
    (fieldOp r.mask = BitVec.allOnes 5 ∧ ¬ ReservedOp (fieldOp r.pattern).toNat) ∧
    (fieldRsv r.mask = BitVec.allOnes 10 ∧ fieldRsv r.pattern = 0) ∧
    ((fieldOp r.pattern).toNat ∈ opsWithoutChan → fieldCh r.mask = 1 ∧ fieldCh r.pattern = 0) ∧
    ((fieldOp r.pattern).toNat ∈ opsWithoutN → fieldN r.mask = BitVec.allOnes 16 ∧ fieldN r.pattern = 0) ∧
    ((fieldOp r.pattern).toNat = 0x06 → fieldN r.mask = BitVec.allOnes 16 <<< 8 ∧ fieldN r.pattern = 0) ∧
    ((fieldOp r.pattern).toNat = 0x10 → fieldN r.mask = BitVec.allOnes 16 <<< 3 ∧ fieldN r.pattern = 0) := by
  decide

theorem cntRead_iff_op : ∀ r ∈ opcodeMap, r.mnemonic = "CNT.READ" ↔ (fieldOp r.pattern).toNat = 0x10 := by
  decide

/-- The `op` of a row tells it from the others. -/
theorem opcodeMap_op_injective :
    ∀ r ∈ opcodeMap, ∀ q ∈ opcodeMap, fieldOp r.pattern = fieldOp q.pattern → r = q := by
  decide

theorem fieldOp_of_fits {r : OpcodeRow} {cw : Word} (hr : r ∈ opcodeMap) (h : r.fits cw = true) :
    fieldOp cw = fieldOp r.pattern := by
  obtain ⟨⟨hmask, -⟩, -⟩ := opcodeMap_fixes r hr
  obtain ⟨hop, -⟩ := OpcodeRow.fits_iff.1 h
  rwa [hmask, BitVec.and_allOnes] at hop

theorem row_unique {r q : OpcodeRow} {cw : Word} (hr : r ∈ opcodeMap) (hq : q ∈ opcodeMap)
    (hrfits : r.fits cw = true) (hqfits : q.fits cw = true) : r = q :=
  opcodeMap_op_injective r hr q hq ((fieldOp_of_fits hr hrfits).symm.trans (fieldOp_of_fits hq hqfits))

/-- A word that decodes fits the row of its operation, being the word of that operation. -/
theorem fits_of_decode {cw : Word} {i : Instr} (h : decode cw = .ok i) :
    ∃ r ∈ opcodeMap, r.fits cw = true ∧ r.mnemonic = i.mnemonic := by
  obtain ⟨rfl, -⟩ := decodedWordIsItsEncoding cw i h
  exact encode_fits i

/-- The index of CNT.READ is the whole of `n` in a word that fits its row. -/
theorem index_of_fits {r : OpcodeRow} {cw : Word} (hr : r ∈ opcodeMap) (h : r.fits cw = true)
    (hop : (fieldOp cw).toNat = 0x10) : (fieldN cw).toNat = cw.toNat % 8 := by
  obtain ⟨-, -, -, -, -, hfix⟩ := opcodeMap_fixes r hr
  obtain ⟨hmask, hpattern⟩ := hfix (fieldOp_of_fits hr h ▸ hop)
  obtain ⟨-, -, -, hn⟩ := OpcodeRow.fits_iff.1 h
  rw [hmask, hpattern, and_highMask_eq_zero_iff, fieldN_toNat] at hn
  rw [fieldN_toNat]
  omega

/-- Of the words that fit a row only CNT.READ with an index above 5 is illegal: R93's other faults are in bits the
row fixes. -/
theorem illegal_iff_of_fits {r : OpcodeRow} {cw : Word} (hr : r ∈ opcodeMap) (h : r.fits cw = true) :
    Illegal cw ↔ r.mnemonic = "CNT.READ" ∧ 5 < cw.toNat % 8 := by
  obtain ⟨⟨-, hreserved⟩, ⟨hrsvMask, hrsv⟩, hchan, hn, hputb, -⟩ := opcodeMap_fixes r hr
  obtain ⟨-, hcwCh, hcwRsv, hcwN⟩ := OpcodeRow.fits_iff.1 h
  rw [cntRead_iff_op r hr]
  rw [← fieldOp_of_fits hr h] at hreserved hchan hn hputb ⊢
  constructor
  · rintro (hbad | hbad | ⟨hbad, hop⟩ | ⟨hbad, hop⟩ | ⟨hbad, hop⟩ | ⟨hbad, hop⟩)
    · exact absurd hbad hreserved
    · rw [hrsvMask, hrsv, BitVec.and_allOnes] at hcwRsv
      exact absurd hcwRsv hbad
    · obtain ⟨hmask, hpattern⟩ := hchan hop
      rw [hmask, hpattern, hbad] at hcwCh
      exact absurd hcwCh (by decide)
    · obtain ⟨hmask, hpattern⟩ := hn hop
      rw [hmask, hpattern, BitVec.and_allOnes] at hcwN
      exact absurd hcwN hbad
    · obtain ⟨hmask, hpattern⟩ := hputb hop
      rw [hmask, hpattern, and_highMask_eq_zero_iff] at hcwN
      omega
    · exact ⟨hop, index_of_fits hr h hop ▸ hbad⟩
  · rintro ⟨hop, hindex⟩
    exact .inr (.inr (.inr (.inr (.inr ⟨(index_of_fits hr h hop).symm ▸ hindex, hop⟩))))

/-- Settles O3: uniqueness by the `op` field, the row of what is decoded by its encoding, and the converse because a
word that fits a row is legal but for CNT.READ's index. -/
theorem decodeFollowsOpcodeMap : Obligations.DecodeFollowsOpcodeMap := by
  refine ⟨fun cw r q => row_unique, fun cw i => fits_of_decode, fun cw r hr hfits hindex => ?_, fun cw hno => ?_⟩
  · have hlegal : ¬ Illegal cw := fun hill => by
      obtain ⟨hcnt, hbad⟩ := (illegal_iff_of_fits hr hfits).1 hill
      exact absurd (hindex hcnt) (by omega)
    obtain ⟨i, hi⟩ := decode_ok_iff.2 hlegal
    obtain ⟨q, hq, hqfits, hname⟩ := fits_of_decode hi
    exact ⟨i, hi, by rw [← hname, row_unique hr hq hfits hqfits]⟩
  · cases hd : decode cw with
    | error e => exact ⟨e, rfl⟩
    | ok i =>
      obtain ⟨r, hr, hfits, -⟩ := fits_of_decode hd
      exact absurd ((illegal_iff_of_fits hr hfits).2 (hno r hr hfits)) (decode_ok_iff.1 ⟨i, hd⟩)

end Sys2Proof

namespace Sys2Proof.Machine

/-- Settles O4: the words that do not decode are the illegal ones, and the model refuses those by name. -/
theorem illegalWordsAreRefused : Obligations.IllegalWordsAreRefused := by
  intro cw s
  refine decode_error_iff.symm.trans ⟨?_, ?_⟩
  · rintro ⟨e, he⟩
    exact ⟨e, runWord_error he s, he⟩
  · rintro ⟨e, -, he⟩
    exact ⟨e, he⟩

/-! ### An operand stream shorter than its count (93_implementation_defined.md U11) -/

/-- An operation that passes its gate is refused where `din` holds fewer bytes than it takes. One that takes none
(`dinNeed` 0) is never short. -/
theorem exec_of_short {i : Instr} {s : State} (hg : gateOf i s = none) (hs : ¬ Supplied s (dinNeed s.cfg (.ok i))) :
    exec i s = .refused .operandStreamShort := by
  have htake := takeDin_eq_none hs
  cases i with
  | chWrite ch len | txSend len | frmParse count | rxCapture count =>
    simp only [gateOf, accessOf] at hg
    simp only [dinNeed] at htake
    simp only [exec, execChWrite, execTxSend, execFrmParse, execRxCapture, hg, htake]
  | _ => exact absurd (Nat.zero_le _) hs

/-- Settles O12: each of the four passes its gate and finds the stream short. -/
theorem shortOperandStreamIsRefused : Obligations.ShortOperandStreamIsRefused := by
  refine ⟨fun s ch len hmay hs => exec_of_short (gate_produce hmay) hs, fun s len hready hs => ?_,
    fun s p count hready hs => ?_, fun s count hready huse hs => ?_⟩
  · obtain ⟨hwf, hinit, hport⟩ := hready
    exact exec_of_short (gate_eq_none.2 ⟨hwf, hinit, portRefusal_tickPort.2 hport⟩) hs
  · obtain ⟨hwf, hinit, -⟩ := hready
    exact exec_of_short (gate_eq_none.2 ⟨hwf, hinit, portRefusal_anyPort _ _⟩) hs
  · obtain ⟨hwf, hinit, hport⟩ := hready
    exact exec_of_short (gate_eq_none.2 ⟨hwf, hinit, portRefusal_capture.2 ⟨hport, huse⟩⟩) hs

end Sys2Proof.Machine
end

section
/-! What an operation of a channel returns, and what it does to its channel and to its overflow counter
(40_channel.md R100 to R106). -/

namespace Sys2Proof.Machine

/-! ### Issuing and returning -/

/-- The converse of `exec_next`: what `Ran` says an operation may do, it does. -/
theorem exec_of_ran {i : Instr} {s t : State} (h : Ran s i t) : exec i s = .next t := by
  cases h <;>
    simp_all [exec, execSysInit, execChInit, execChAvail, execChRead, execChWrite, execChGetb, execChPutb,
      execFrmBuild, execFrmParse, execRxCapture, execRaTick, execTxSend, execTxDone, execCntRead, execCntReset,
      takeDin_eq_some]

theorem gate_tickPort {s : State} (h : Ready s .t) : gate s .tickPort = none := by
  obtain ⟨hwf, hinit, hport⟩ := h
  exact gate_eq_none.2 ⟨hwf, hinit, portRefusal_tickPort.2 hport⟩

theorem gate_anyPort {s : State} {p : Port} (h : Ready s p) : gate s .anyPort = none := by
  obtain ⟨hwf, hinit, -⟩ := h
  exact gate_eq_none.2 ⟨hwf, hinit, portRefusal_anyPort _ _⟩

/-- A producer is on port E. -/
theorem gate_produce_of_tick {s : State} (h : Ready s .t) (ch : Chan) :
    gate s (.produce ch) = some (.wrongPort .t) := by
  obtain ⟨hwf, hinit, hport⟩ := h
  cases ch <;> simp [gate, portRefusal, hwf, hinit, hport]

/-- Nothing but a producer passes the gate of CH.WRITE and CH.PUTB. -/
theorem mayProduce_of_gate {s : State} {ch : Chan} (h : gate s (.produce ch) = none) : MayProduce s ch := by
  obtain ⟨hwf, hinit, hp⟩ := gate_eq_none.1 h
  cases ch with
  | chIn => exact ⟨hwf, hinit, portRefusal_produce_in.1 hp⟩
  | chOut =>
    obtain ⟨hport, huse⟩ := portRefusal_produce_out.1 hp
    exact ⟨⟨hwf, hinit, hport⟩, huse⟩

/-- Nothing but a consumer passes the gate of CH.READ and CH.GETB. -/
theorem mayConsume_of_gate {s : State} {ch : Chan} (h : gate s (.consume ch) = none) : MayConsume s ch := by
  obtain ⟨hwf, hinit, hp⟩ := gate_eq_none.1 h
  cases ch with
  | chIn =>
    obtain ⟨hport, huse⟩ := portRefusal_consume_in.1 hp
    exact ⟨⟨hwf, hinit, hport⟩, huse⟩
  | chOut => exact ⟨_, ⟨hwf, hinit, rfl⟩, portRefusal_consume_out.1 hp⟩

theorem MayProduce.wf {s : State} {ch : Chan} (h : MayProduce s ch) : s.cfg.wf = true :=
  (gate_eq_none.1 (gate_produce h)).1

theorem MayProduce.port {s : State} {ch : Chan} (h : MayProduce s ch) : s.cur.port = .e :=
  port_of_gate_produce (gate_produce h)

theorem afterOperands_zero (s : State) : s.afterOperands 0 = s := by
  simp only [State.afterOperands, List.drop_zero]
  cases s.cur.port <;> rfl

/-- An operation that took `n` bytes and touched nothing else but the architectural state, the uses of the run and
the frame output returns its result. -/
theorem returns_finish {s u : State} {n : Nat} {k : CoreState} {use : RunUse} {x : Option TxFrame} {r : PortResult}
    (hu : u = { s.afterOperands n with core := k, runUse := use, tx := x }) (hr : r.status = .done) :
    Returns s (u.finish r) n r := by
  have hport : u.cur.port = s.cur.port := by simp [hu]
  have hin (p : Port) : u.portIn p = (s.afterOperands n).portIn p := by cases p <;> simp [hu, State.portIn]
  have hres (p : Port) : u.result p = s.result p := by cases p <;> simp [hu, State.result]
  refine ⟨by simp [hu], by simp [hu], by simp [hu], by simp [hu], by simp [hu], by simp [State.finish_inProgress, hu],
    by simp [hin], fun p hp => ?_, hport ▸ State.finish_result_self u r, fun p hp => ?_, hr⟩
  · rw [State.finish_portIn, hin, State.setPortIn_portIn_of_ne hp]
  · rw [State.finish_result_of_ne u r (hport ▸ hp), hres]

/-- An operation that took no operand returns its result. -/
theorem returns_finish_zero {s u : State} {k : CoreState} {use : RunUse} {x : Option TxFrame} {r : PortResult}
    (hu : u = { s with core := k, runUse := use, tx := x }) (hr : r.status = .done) :
    Returns s (u.finish r) 0 r := returns_finish (by rwa [afterOperands_zero]) hr

theorem rcountOf_toNat {ticket v : Nat} (h : v < 2 ^ 32) : (rcountOf ticket v).toNat = v := by
  simp only [rcountOf, if_pos h, BitVec.toNat_ofNat]
  exact Nat.mod_eq_of_lt h

/-! ### Counters -/

theorem grownBy_bump (cfg : Config) (k : CoreState) (c : Counter) (v : Nat) :
    GrownBy cfg k (k.bump cfg c v) c v := by simp [GrownBy]

/-- A counter left alone has grown by nothing. -/
theorem grownBy_zero {cfg : Config} {k l : CoreState} {c : Counter} (h : l.cnt.get c = k.cnt.get c)
    (hlt : k.cnt.get c < 2 ^ cfg.wCnt) : GrownBy cfg k l c 0 := by
  rw [GrownBy, h, Nat.add_zero, Nat.mod_eq_of_lt hlt]

theorem GrownBy.lt {cfg : Config} {k l : CoreState} {c : Counter} {v : Nat} (h : GrownBy cfg k l c v) :
    l.cnt.get c < 2 ^ cfg.wCnt := h ▸ Nat.mod_lt _ (Nat.two_pow_pos _)

theorem GrownBy.trans {cfg : Config} {k l m : CoreState} {c : Counter} {v w : Nat} (h : GrownBy cfg k l c v)
    (h' : GrownBy cfg l m c w) : GrownBy cfg k m c (v + w) := by
  rw [GrownBy, h', h, Nat.mod_add_mod, Nat.add_assoc]

/-! ### Writing -/

theorem appended_writeStore {cfg : Config} {k : CoreState} {ch : Chan} {bs : List Byte} (h : ChannelOk cfg k ch)
    (hbs : bs.length ≤ free cfg k ch) : Appended cfg k (writeStore cfg k ch bs) ch bs := by
  have hlen : bs.length ≤ cfg.cap ch := by have := occ_add_free h; omega
  refine ⟨held_writeStore h hbs, by simp, by simp, fun i x hi => ?_, fun a ha => ?_,
    fun c hc => writeStore_chan_of_ne hc ..⟩ <;> rw [writeStore_chan_self]
  · exact Memory.read_storeRing hlen hi
  · exact Memory.read_storeRing_of_ne ha

/-- Counting touches no channel. -/
theorem Appended.bump {cfg : Config} {k l : CoreState} {ch : Chan} {bs : List Byte} (h : Appended cfg k l ch bs)
    (c : Counter) (v : Nat) : Appended cfg k (l.bump cfg c v) ch bs := by
  simpa only [Appended, CoreState.bump_chan, held_congr (CoreState.bump_chan cfg l c v ch)] using h

theorem appended_writeChan {cfg : Config} {k : CoreState} {ch : Chan} (h : ChannelOk cfg k ch) (data : List Byte) :
    Appended cfg k (writeChan cfg k ch data).2 ch (data.take (min data.length (free cfg k ch))) := by
  rcases (writeChan_cases cfg k ch data).2 with ⟨hfits, hw⟩ | ⟨hover, hw⟩ <;> rw [hw]
  · rw [Nat.min_eq_left hfits, List.take_length]
    exact appended_writeStore h hfits
  · rw [Nat.min_eq_right hover.le]
    exact (appended_writeStore h (by simp)).bump _ _

theorem writeChan_cnt_of_fits {cfg : Config} {k : CoreState} {ch : Chan} {data : List Byte}
    (h : data.length ≤ free cfg k ch) : (writeChan cfg k ch data).2.cnt = k.cnt := by
  rcases (writeChan_cases cfg k ch data).2 with ⟨-, hw⟩ | ⟨hover, -⟩
  · rw [hw, writeStore_cnt]
  · omega

theorem grownBy_writeChan {cfg : Config} {k : CoreState} {ch : Chan} {data : List Byte}
    (h : free cfg k ch < data.length) :
    GrownBy cfg k (writeChan cfg k ch data).2 (ovfOf ch) (data.length - free cfg k ch) := by
  rcases (writeChan_cases cfg k ch data).2 with ⟨hfits, -⟩ | ⟨-, hw⟩
  · omega
  · rw [hw, GrownBy, CoreState.bump_cnt, writeStore_cnt, Counters.get_set_self]

theorem ChannelOk.writeChan {cfg : Config} {k : CoreState} {ch : Chan} (h : ChannelOk cfg k ch)
    (data : List Byte) : ChannelOk cfg (writeChan cfg k ch data).2 ch := by
  rcases (writeChan_cases cfg k ch data).2 with ⟨hfits, hw⟩ | ⟨-, hw⟩ <;> rw [hw]
  · exact h.writeStore hfits
  · exact (h.writeStore (by simp)).congr (CoreState.bump_chan ..)

/-! ### Reading -/

theorem consumed_readPublish {cfg : Config} {k : CoreState} {ch : Chan} {n : Nat} (h : ChannelOk cfg k ch)
    (hn : n ≤ occ cfg k ch) : Consumed cfg k (readPublish cfg k ch n) ch n :=
  ⟨readPublish_chan_self .., held_readPublish h hn, fun _ hc => readPublish_chan_of_ne hc ..⟩

/-- A channel that has given up some of the bytes it held stays good. -/
theorem Consumed.channelOk {cfg : Config} {k l : CoreState} {ch : Chan} {n : Nat} (h : Consumed cfg k l ch n)
    (hok : ChannelOk cfg k ch) (hn : n ≤ occ cfg k ch) : ChannelOk cfg l ch := by
  obtain ⟨hchan, -, -⟩ := h
  exact (hok.readPublish hn).congr (hchan.trans (readPublish_chan_self ..).symm)

/-- The snapshot of CH.READ covers what it can deliver: the oldest bytes held, at most `max`. -/
theorem readCopy_readSnap {cfg : Config} {k : CoreState} {ch : Chan} (h : ChannelOk cfg k ch) (ticket max : Nat) :
    (readCopy cfg ticket k ch (readSnap cfg k ch max)).map some = (held cfg k ch).take max := by
  obtain ⟨-, -, -, -, hwritten⟩ := h
  rw [readCopy_eq_held ticket (readSnap_le_occ ..) hwritten, readSnap, ← held_length, ← List.take_eq_take_min]

/-- CH.GETB copies the oldest byte held. -/
theorem getbByte_eq_held {cfg : Config} {k : CoreState} {ch : Chan} (h : ChannelOk cfg k ch)
    (hn : 1 ≤ occ cfg k ch) (ticket : Nat) : [some (getbByte cfg ticket k ch)] = (held cfg k ch).take 1 := by
  obtain ⟨-, -, -, -, hwritten⟩ := h
  exact readCopy_eq_held ticket hn hwritten

/-! ### The statements -/

/-- Settles O17: CH.INIT leaves an empty channel at the index 0. -/
theorem chInitEmptiesTheChannel : Obligations.ChInitEmptiesTheChannel := by
  intro s ch h
  refine ⟨_, _, exec_of_ran (.chInit ch (gate_tickPort h)), by simp, by simp, ?_, by simp, fun c hc => ?_, by simp,
    ?_, by simp, by simp, returns_finish_zero rfl rfl⟩
  · simp [occ, ringOcc]
  · simp [CoreState.setChan_chan_of_ne hc]
  · simp [SameOffChannels]

/-- Settles O18: CH.AVAIL ends with the occupancy as its result. -/
theorem chAvailReturnsOccupancy : Obligations.ChAvailReturnsOccupancy := by
  intro s p ch h
  exact ⟨_, _, exec_of_ran (.chAvail ch (gate_anyPort h)), by simp, by simp, by simp,
    returns_finish_zero rfl rfl, rcountOf_toNat⟩

/-- Settles O19: what is copied is the oldest bytes held, and publishing gives up as many. -/
theorem chReadDeliversTheOldestBytes : Obligations.ChReadDeliversTheOldestBytes := by
  intro s ch max hmay hwhole hok
  have hsmall : min max.toNat (occ s.cfg s.core ch) < 2 ^ 32 := by have := max.isLt; omega
  refine ⟨_, _, exec_of_ran (.chRead ch max (gate_consume hmay) hwhole), ?_, by simp [endRead], ?_, by simp [endRead],
    by simp [endRead], returns_finish_zero rfl rfl, rcountOf_toNat hsmall, readCopy_readSnap hok ..⟩
  · simpa [endRead, readSnap] using consumed_readPublish hok (readSnap_le_occ s.cfg s.core ch max.toNat)
  · simpa [endRead] using readPublish_sameOffChannels ..

/-- Settles O20: CH.WRITE is `writeChan` of the operand bytes; port T does not pass the gate. -/
theorem chWriteAcceptsWhatFits : Obligations.ChWriteAcceptsWhatFits := by
  refine ⟨fun s ch len hmay hs hok => ?_, fun s ch len h => exec_of_gate (gate_produce_of_tick h ch)⟩
  have hlen : (s.operandBytes len.toNat).length = len.toNat := operandBytes_length hs
  have haccepts := (writeChan_cases s.cfg s.core ch (s.operandBytes len.toNat)).1
  have hsmall : min len.toNat (free s.cfg s.core ch) < 2 ^ 32 := by have := len.isLt; omega
  rw [hlen] at haccepts
  refine ⟨_, _, _, exec_of_ran (.chWrite ch len (gate_produce hmay) hs), rfl, ?_, fun hk => ?_, fun hk => ?_, ?_, ?_,
    by simp, by simp, returns_finish rfl rfl, ?_⟩
  · simpa [hlen] using appended_writeChan hok (s.operandBytes len.toNat)
  · have hover : free s.cfg s.core ch < len.toNat := by omega
    simpa [hlen, Nat.min_eq_right hover.le] using
      grownBy_writeChan (data := s.operandBytes len.toNat) (hlen.symm ▸ hover)
  · simpa using writeChan_cnt_of_fits (data := s.operandBytes len.toNat) (by omega)
  · simpa using sameCountersBut_writeChan (List.mem_singleton_self (ovfOf ch)) _ _ _
  · simpa using sameOffChannels_writeChan ..
  · rw [haccepts]
    exact rcountOf_toNat hsmall

/-- Settles O21: an empty channel is left alone, from another the oldest byte is copied and published. -/
theorem chGetbDeliversOneByte : Obligations.ChGetbDeliversOneByte := by
  intro s ch hmay hwhole hok
  cases hempty : isEmpty s.core ch with
  | true =>
    have hocc := (isEmpty_iff hok).1 hempty
    exact ⟨_, _, exec_of_ran (.chGetbEmpty ch (gate_consume hmay) hempty), by simp, by simp [SameOffChannels], by simp,
      by simp, returns_finish_zero rfl rfl,
      fun _ => ⟨rfl, by simp⟩, fun hne => absurd hocc hne⟩
  | false =>
    have hone := one_le_occ hok hempty
    refine ⟨_, _, exec_of_ran (.chGetb ch (gate_consume hmay) hempty hwhole), by simp [endGetb], ?_, by simp [endGetb],
      by simp [endGetb], returns_finish_zero rfl rfl,
      fun hno => by omega, fun _ => ⟨rfl, ?_, getbByte_eq_held hok hone _⟩⟩
    · simpa [endGetb] using readPublish_sameOffChannels ..
    · simpa [endGetb] using consumed_readPublish hok hone

/-- Settles O22: a full channel counts the byte, another stores it; port T does not pass the gate. -/
theorem chPutbStoresOrCounts : Obligations.ChPutbStoresOrCounts := by
  refine ⟨fun s ch b hmay hok => ?_, fun s ch b h => exec_of_gate (gate_produce_of_tick h ch)⟩
  cases hfull : isFull s.cfg s.core ch with
  | true =>
    have hnone := (isFull_iff hok (two_le_cap hmay.wf ch)).1 hfull
    refine ⟨_, _, exec_of_ran (.chPutbFull ch b (gate_produce hmay) hfull), ?_, by simp, by simp,
      returns_finish_zero rfl rfl, ?_, fun hroom => absurd hnone hroom,
      fun _ => ⟨rfl, ?_, by simp⟩⟩
    · simpa using sameOffChannels_bump ..
    · simpa using sameCountersBut_bump (List.mem_singleton_self (ovfOf ch)) _ _ _
    · simpa using grownBy_bump ..
  | false =>
    have hroom : [b].length ≤ free s.cfg s.core ch := one_le_free hok hmay.wf hfull
    refine ⟨_, _, exec_of_ran (.chPutb ch b (gate_produce hmay) hfull), ?_, by simp, by simp,
      returns_finish_zero rfl rfl, ?_,
      fun _ => ⟨rfl, ?_, by simp⟩, fun hnone => by simp [hnone] at hroom⟩
    · simpa using writeStore_sameOffChannels ..
    · exact sameCountersBut_of_cnt_eq (by simp) _
    · simpa using appended_writeStore hok hroom

end Sys2Proof.Machine
end

section
/-! Traffic on one channel (40_channel.md R107, R108): what one operation on it, whole or in micro-steps, does to the
bytes it holds, the read of it in progress and its overflow counter; then the same of any number of them. -/

namespace Sys2Proof.Machine

/-! ### What an operation of a channel leaves -/

theorem Returns.cfg {s t : State} {n : Nat} {r : PortResult} (h : Returns s t n r) : t.cfg = s.cfg := h.1

/-- The result an operation returns is the one found on its port. -/
theorem Returns.result_eq {s t : State} {n : Nat} {r q : PortResult} (h : Returns s t n r)
    (hq : t.result s.cur.port = some q) : r = q := by
  obtain ⟨-, -, -, -, -, -, -, -, hr, -⟩ := h
  exact Option.some.inj (hr.symm.trans hq)

/-- An operation on port E leaves the read in progress on port T. -/
theorem Returns.readPending_of_event {s t : State} {n : Nat} {r : PortResult} (h : Returns s t n r)
    (hp : s.cur.port = .e) (ch : Chan) : t.readPending ch = s.readPending ch := by
  obtain ⟨-, -, -, -, -, hprog, -⟩ := h
  simp [State.readPending, hprog, hp]

/-- An operation that has ended begins no read. -/
theorem Returns.readPending_of_none {s t : State} {n : Nat} {r : PortResult} (h : Returns s t n r) {ch : Chan}
    (hs : s.readPending ch = none) : t.readPending ch = none := by
  obtain ⟨-, -, -, -, -, hprog, -⟩ := h
  simp only [State.readPending, hprog] at hs ⊢
  split
  · rfl
  · exact hs

/-- An operation that ends on port T leaves none in progress there. -/
theorem readPending_finish_of_tick {s : State} (h : s.cur.port = .t) (r : PortResult) (ch : Chan) :
    (s.finish r).readPending ch = none :=
  readPending_of_none ((State.finish_inProgress s r).trans (if_pos h)) ch

theorem channelOk_of_chWrite {s t : State} {ch : Chan} {len : Half} (h : ChannelOk s.cfg s.core ch)
    (hexec : exec (.chWrite ch len) s = .next t) : ChannelOk t.cfg t.core ch := by
  cases exec_next hexec
  simpa using h.writeChan _

theorem channelOk_of_chPutb {s t : State} {ch : Chan} {b : Byte} (h : ChannelOk s.cfg s.core ch)
    (hexec : exec (.chPutb ch b) s = .next t) : ChannelOk t.cfg t.core ch := by
  cases exec_next hexec with
  | chPutbFull => simpa using h.congr (CoreState.bump_chan ..)
  | chPutb _ _ hg hf =>
    have hroom : [b].length ≤ free s.cfg s.core ch := one_le_free h (gate_eq_none.1 hg).1 hf
    simpa using h.writeStore hroom

/-- An operation answers in one way. -/
theorem next_unique {i : Instr} {s t u : State} (h : exec i s = .next t) (h' : exec i s = .next u) : t = u :=
  Host.Outcome.next.inj (h.symm.trans h')

/-! ### The read in progress -/

/-- The snapshot of a read of channel `ch` covers bytes that are there, and what it has copied are the oldest of
them (70_reset_and_hazards.md R212). -/
def Micro.Covers (cfg : Config) (k : CoreState) (ch : Chan) : Micro → Prop
  | .readCopy _ n => n ≤ occ cfg k ch
  | .readPublish _ n data => n ≤ occ cfg k ch ∧ data.map some = (held cfg k ch).take n
  | .getbCopy _ => 1 ≤ occ cfg k ch
  | .getbPublish _ b => 1 ≤ occ cfg k ch ∧ [some b] = (held cfg k ch).take 1
  | _ => True

/-- Bytes written behind those held leave a read in progress covered. -/
theorem Micro.Covers.append {cfg : Config} {k l : CoreState} {ch : Chan} {m : Micro} {xs : List (Option Byte)}
    (h : m.Covers cfg k ch) (hl : held cfg l ch = held cfg k ch ++ xs) : m.Covers cfg l ch := by
  have hocc : occ cfg k ch ≤ occ cfg l ch := by
    rw [← held_length cfg l, hl, List.length_append, held_length]
    exact Nat.le_add_right _ _
  have htake {n : Nat} (hn : n ≤ occ cfg k ch) : (held cfg l ch).take n = (held cfg k ch).take n := by
    rw [hl, List.take_append_of_le_length (by rwa [held_length])]
  cases m with
  | readCopy c n => exact Nat.le_trans h hocc
  | getbCopy c => exact Nat.le_trans h hocc
  | readPublish c n data => exact ⟨h.1.trans hocc, h.2.trans (htake h.1).symm⟩
  | getbPublish c b => exact ⟨h.1.trans hocc, h.2.trans (htake h.1).symm⟩
  | _ => trivial

/-- A state in which traffic on channel `ch` may go on: a CORE whose channel is good, and a read of it in progress,
if there is one, on port T and covered. -/
structure TrafficOk (ch : Chan) (s : State) : Prop where
  wf : s.cfg.wf = true
  channel : ChannelOk s.cfg s.core ch
  pending : ∀ q, s.readPending ch = some q → q.op.port = .t ∧ q.next.Covers s.cfg s.core ch

/-! ### What traffic does -/

/-- From `s` to `t` channel `ch` was offered `n` bytes, accepted those of `a` behind what it held and delivered those
of `b` from the front; what was offered and not accepted is counted; and traffic may go on. -/
structure Moves (ch : Chan) (s t : State) (n : Nat) (a b : List Byte) : Prop where
  ok : TrafficOk ch t
  cfg : t.cfg = s.cfg
  queue : held s.cfg s.core ch ++ a.map some = b.map some ++ held t.cfg t.core ch
  accepted : a.length ≤ n
  counted : s.core.cnt.get (ovfOf ch) < 2 ^ s.cfg.wCnt →
    GrownBy s.cfg s.core t.core (ovfOf ch) (n - a.length)

theorem Moves.trans {ch : Chan} {s u t : State} {m n : Nat} {a b c d : List Byte} (h : Moves ch s u m a b)
    (h' : Moves ch u t n c d) : Moves ch s t (m + n) (a ++ c) (b ++ d) where
  ok := h'.ok
  cfg := h'.cfg.trans h.cfg
  queue := by
    calc held s.cfg s.core ch ++ (a ++ c).map some
      _ = b.map some ++ (held u.cfg u.core ch ++ c.map some) := by
        rw [List.map_append, ← List.append_assoc, h.queue, List.append_assoc]
      _ = (b ++ d).map some ++ held t.cfg t.core ch := by
        rw [h'.queue, List.map_append, List.append_assoc]
  accepted := by
    rw [List.length_append]
    exact Nat.add_le_add h.accepted h'.accepted
  counted hlt := by
    have hfirst := h.counted hlt
    have hsecond := h'.counted (h.cfg.symm ▸ hfirst.lt)
    have hm := h.accepted
    have hn := h'.accepted
    rw [List.length_append, show m + n - (a.length + c.length) = (m - a.length) + (n - c.length) by omega]
    exact hfirst.trans (h.cfg ▸ hsecond)

/-- Nothing happens on the channel. -/
theorem moves_of_sameChannel {ch : Chan} {s t : State} (h : TrafficOk ch s) (hsame : SameChannel ch s t) :
    Moves ch s t 0 [] [] := by
  obtain ⟨hcfg, hchan, hcnt, hpend⟩ := hsame
  have hheld : held s.cfg t.core ch = held s.cfg s.core ch := held_congr hchan _
  refine ⟨⟨hcfg ▸ h.wf, hcfg ▸ h.channel.congr hchan, fun q hq => ?_⟩, hcfg, by simp [hcfg, hheld], le_rfl,
    grownBy_zero hcnt⟩
  obtain ⟨hport, hcov⟩ := h.pending q (hpend ▸ hq)
  exact ⟨hport, hcfg ▸ hcov.append (xs := []) (by simpa using hheld)⟩

/-- The channel accepts bytes, a read of it in progress or not. -/
theorem moves_of_accepted {ch : Chan} {s t : State} {n : Nat} {a : List Byte} (h : TrafficOk ch s)
    (hcfg : t.cfg = s.cfg) (hok : ChannelOk t.cfg t.core ch) (hpend : t.readPending ch = s.readPending ch)
    (hheld : held s.cfg t.core ch = held s.cfg s.core ch ++ a.map some) (ha : a.length ≤ n)
    (hcnt : s.core.cnt.get (ovfOf ch) < 2 ^ s.cfg.wCnt → GrownBy s.cfg s.core t.core (ovfOf ch) (n - a.length)) :
    Moves ch s t n a [] := by
  refine ⟨⟨hcfg ▸ h.wf, hok, fun q hq => ?_⟩, hcfg, by simp [hcfg, hheld], ha, hcnt⟩
  obtain ⟨hport, hcov⟩ := h.pending q (hpend ▸ hq)
  exact ⟨hport, hcfg ▸ hcov.append hheld⟩

/-- The channel gives up the bytes delivered, and no read of it remains in progress. -/
theorem moves_of_consumed {ch : Chan} {s t : State} {n : Nat} {b : List Byte} (h : TrafficOk ch s)
    (hcfg : t.cfg = s.cfg) (hcons : Consumed s.cfg s.core t.core ch n) (hn : n ≤ occ s.cfg s.core ch)
    (hb : b.map some = (held s.cfg s.core ch).take n) (hcnt : t.core.cnt = s.core.cnt)
    (hpend : t.readPending ch = none) : Moves ch s t 0 [] b := by
  have hok := hcons.channelOk h.channel hn
  obtain ⟨-, hheld, -⟩ := hcons
  refine ⟨⟨hcfg ▸ h.wf, hcfg ▸ hok, fun q hq => ?_⟩, hcfg, ?_, le_rfl, grownBy_zero (by rw [hcnt])⟩
  · rw [hpend] at hq; cases hq
  · rw [hcfg, hheld, hb, List.take_append_drop, List.map_nil, List.append_nil]

/-- A read of the channel stops after a micro-step, its snapshot covered. -/
theorem moves_of_pause {ch : Chan} {s u : State} {m : Micro} (h : TrafficOk ch s) (hcfg : u.cfg = s.cfg)
    (hcore : u.core = s.core) (hport : u.cur.port = .t) (hcov : m.Covers s.cfg s.core ch) :
    Moves ch s (u.pause m) 0 [] [] := by
  refine ⟨⟨by simpa [hcfg] using h.wf, by simpa [hcfg, hcore] using h.channel, fun q hq => ?_⟩, by simpa, ?_, le_rfl,
    grownBy_zero (by simp [hcore])⟩
  · rw [pause_readPending] at hq
    split at hq <;> cases hq
    exact ⟨hport, by simpa [hcfg, hcore] using hcov⟩
  · simp [hcfg, hcore]

/-! ### The operations -/

theorem moves_chWrite {ch : Chan} {s t : State} {len : Half} {r : PortResult} (h : TrafficOk ch s)
    (hexec : exec (.chWrite ch len) s = .next t) (hr : t.result s.cur.port = some r) :
    Moves ch s t len.toNat ((s.operandBytes len.toNat).take r.rcount.toNat) [] := by
  obtain ⟨hmay, hs⟩ : MayProduce s ch ∧ Supplied s len.toNat := by
    cases exec_next hexec with
    | chWrite _ _ hg hs => exact ⟨mayProduce_of_gate hg, hs⟩
  obtain ⟨u, q, k, hu, hk, ⟨hheld, -⟩, hover, hfits, -, -, -, -, hret, hcount⟩ :=
    chWriteAcceptsWhatFits.1 s ch len hmay hs h.channel
  obtain rfl := next_unique hexec hu
  obtain rfl := hret.result_eq hr
  have hle : k ≤ len.toNat := hk ▸ Nat.min_le_left _ _
  have hlen : ((s.operandBytes len.toNat).take k).length = k := by simp [operandBytes_length hs, hle]
  rw [hcount]
  refine moves_of_accepted h hret.cfg (channelOk_of_chWrite h.channel hexec)
    (hret.readPending_of_event hmay.port ch) hheld (hlen.trans_le hle) fun hlt => ?_
  rw [hlen]
  rcases hle.lt_or_eq with hlt' | heq
  · exact hover hlt'
  · rw [heq, Nat.sub_self]
    exact grownBy_zero (by rw [hfits heq]) hlt

theorem moves_chPutb {ch : Chan} {s t : State} {x : Byte} {r : PortResult} (h : TrafficOk ch s)
    (hexec : exec (.chPutb ch x) s = .next t) (hr : t.result s.cur.port = some r) :
    Moves ch s t 1 (if r.rok then [x] else []) [] := by
  have hmay : MayProduce s ch := by cases exec_next hexec <;> exact mayProduce_of_gate ‹_›
  obtain ⟨u, q, hu, -, -, -, hret, -, hroom, hfull⟩ := chPutbStoresOrCounts.1 s ch x hmay h.channel
  obtain rfl := next_unique hexec hu
  obtain rfl := hret.result_eq hr
  have hok := channelOk_of_chPutb h.channel hexec
  have hpend := hret.readPending_of_event hmay.port ch
  by_cases hfree : free s.cfg s.core ch = 0
  · obtain ⟨hrok, hgrow, hchan⟩ := hfull hfree
    rw [hrok]
    exact moves_of_accepted h hret.cfg hok hpend (by simpa using held_congr (hchan ch) s.cfg) (by simp)
      fun _ => hgrow
  · obtain ⟨hrok, ⟨hheld, -⟩, hcnt⟩ := hroom hfree
    rw [hrok]
    exact moves_of_accepted h hret.cfg hok hpend hheld le_rfl (grownBy_zero (by rw [hcnt]))

theorem moves_chRead {ch : Chan} {s t : State} {max : Half} {r : PortResult} (h : TrafficOk ch s)
    (hfree : s.readPending ch = none) (hwhole : s.stepwise = false) (hexec : exec (.chRead ch max) s = .next t)
    (hr : t.result s.cur.port = some r) : Moves ch s t 0 [] r.dout := by
  have hmay : MayConsume s ch := by cases exec_next hexec <;> exact mayConsume_of_gate ‹_›
  obtain ⟨u, q, hu, hcons, hcnt, -, -, -, hret, -, hdout⟩ :=
    chReadDeliversTheOldestBytes s ch max hmay hwhole h.channel
  obtain rfl := next_unique hexec hu
  obtain rfl := hret.result_eq hr
  rw [List.take_eq_take_min, held_length] at hdout
  exact moves_of_consumed h hret.cfg hcons (Nat.min_le_right _ _) hdout hcnt (hret.readPending_of_none hfree)

theorem moves_chGetb {ch : Chan} {s t : State} {r : PortResult} (h : TrafficOk ch s)
    (hfree : s.readPending ch = none) (hwhole : s.stepwise = false) (hexec : exec (.chGetb ch) s = .next t)
    (hr : t.result s.cur.port = some r) : Moves ch s t 0 [] (if r.rok then r.dout else []) := by
  have hmay : MayConsume s ch := by cases exec_next hexec <;> exact mayConsume_of_gate ‹_›
  obtain ⟨u, q, hu, hcnt, -, -, -, hret, hempty, hsome⟩ := chGetbDeliversOneByte s ch hmay hwhole h.channel
  obtain rfl := next_unique hexec hu
  obtain rfl := hret.result_eq hr
  have hpend := hret.readPending_of_none hfree
  by_cases hocc : occ s.cfg s.core ch = 0
  · obtain ⟨hrok, hcore⟩ := hempty hocc
    rw [hrok]
    exact moves_of_sameChannel h ⟨hret.cfg, by rw [hcore], by rw [hcore], hpend.trans hfree.symm⟩
  · obtain ⟨hrok, hcons, hdout⟩ := hsome hocc
    rw [hrok]
    exact moves_of_consumed h hret.cfg hcons (Nat.one_le_iff_ne_zero.2 hocc) hdout hcnt hpend

theorem moves_chReadStart {ch : Chan} {s t : State} {max : Half} (h : TrafficOk ch s) (hstep : s.stepwise = true)
    (hexec : exec (.chRead ch max) s = .next t) : Moves ch s t 0 [] [] := by
  cases exec_next hexec with
  | chRead _ _ _ hwhole => rw [hstep] at hwhole; cases hwhole
  | chReadStart => exact moves_of_pause h rfl rfl (port_of_stepwise hstep) (readSnap_le_occ ..)

/-- CH.GETB ends at its first micro-step where it finds the channel empty. -/
theorem moves_chGetbStart {ch : Chan} {s t : State} (h : TrafficOk ch s) (hfree : s.readPending ch = none)
    (hstep : s.stepwise = true) (hexec : exec (.chGetb ch) s = .next t) : Moves ch s t 0 [] [] := by
  cases exec_next hexec with
  | chGetb _ _ _ hwhole => rw [hstep] at hwhole; cases hwhole
  | chGetbStart _ _ hsome =>
    exact moves_of_pause h rfl rfl (port_of_stepwise hstep) (one_le_occ h.channel hsome)
  | chGetbEmpty =>
    have hpend := readPending_finish_of_tick (s := s.noteUse (.consume ch)) (port_of_stepwise hstep)
    exact moves_of_sameChannel h ⟨by simp, by simp, by simp, (hpend _ ch).trans hfree.symm⟩

/-- What a micro-step of a covered read can do: copy or take its snapshot, which leaves it covered, or publish the
oldest bytes and end. -/
theorem microStep_read_cases {ch : Chan} {s t : State} {m : Micro} (hwf : s.cfg.wf = true)
    (hok : ChannelOk s.cfg s.core ch) (hreads : m.readsFrom ch = true) (hcov : m.Covers s.cfg s.core ch)
    (h : microStep m s = .next t) :
    (∃ m', m'.readsFrom ch = true ∧ m'.Covers s.cfg s.core ch ∧ t = s.pause m') ∨
    ∃ n r, n ≤ occ s.cfg s.core ch ∧ r.dout.map some = (held s.cfg s.core ch).take n ∧
      t = (s.setCore (readPublish s.cfg s.core ch n)).finish r := by
  have ⟨_, _, _, _, hwritten⟩ := hok
  simp only [microStep, hwf, Bool.true_eq_false, if_false] at h
  cases m with
  | readCopy c n =>
    obtain rfl : c = ch := of_decide_eq_true hreads
    cases h
    exact .inl ⟨.readPublish c n _, hreads, ⟨hcov, readCopy_eq_held _ hcov hwritten⟩, rfl⟩
  | getbCopy c =>
    obtain rfl : c = ch := of_decide_eq_true hreads
    cases h
    exact .inl ⟨.getbPublish c _, hreads, ⟨hcov, getbByte_eq_held hok hcov _⟩, rfl⟩
  | readPublish c n data =>
    obtain rfl : c = ch := of_decide_eq_true hreads
    cases h
    obtain ⟨hn, hdata⟩ := hcov
    exact .inr ⟨n, _, hn, hdata, rfl⟩
  | getbPublish c b =>
    obtain rfl : c = ch := of_decide_eq_true hreads
    cases h
    obtain ⟨hn, hdata⟩ := hcov
    exact .inr ⟨1, _, hn, by exact hdata, rfl⟩
  | _ => cases hreads

/-- A micro-step of a read delivers nothing while the read stays in progress, and the bytes copied when it ends. -/
theorem moves_micro {ch : Chan} {s t : State} {q : InProgress} (h : TrafficOk ch s)
    (hq : s.readPending ch = some q) (hmicro : microStep q.next { s with cur := q.op } = .next t) :
    Moves ch s t 0 []
      (if (t.readPending ch).isSome then [] else (t.result q.op.port).elim [] (·.dout)) := by
  obtain ⟨hport, hcov⟩ := h.pending q hq
  obtain ⟨-, hreads⟩ := readPending_eq_some.1 hq
  rcases microStep_read_cases (s := { s with cur := q.op }) h.wf h.channel hreads hcov hmicro with
    ⟨m, hm, hcov', rfl⟩ | ⟨n, r, hn, hdata, rfl⟩
  · simpa [hm] using moves_of_pause (u := { s with cur := q.op }) h rfl rfl hport hcov'
  · have hpend := readPending_finish_of_tick
      (s := State.setCore { s with cur := q.op } (readPublish s.cfg s.core ch n)) hport r ch
    have hres := State.finish_result_self (State.setCore { s with cur := q.op } (readPublish s.cfg s.core ch n)) r
    simp only [State.setCore_cur] at hres
    simp only [hpend, hres, Option.isSome_none, Bool.false_eq_true, if_false, Option.elim_some]
    exact moves_of_consumed h (by simp) (by simpa using consumed_readPublish h.channel hn) hn hdata (by simp) hpend

/-! ### The laws -/

/-- Whatever happens outside the channel moves nothing of it. -/
theorem Moves.idle {ch : Chan} {s u v : State} {n : Nat} {a b : List Byte} (h : Moves ch s u n a b)
    (hsame : SameChannel ch u v) : Moves ch s v n a b := by
  simpa using h.trans (moves_of_sameChannel h.ok hsame)

/-- What each operation moves adds up: the one induction behind both laws. -/
theorem Traffic.moves {ch : Chan} {s t : State} {n : Nat} {a b : List Byte} (ht : Traffic ch s n a b t)
    (h : TrafficOk ch s) : Moves ch s t n a b := by
  induction ht with
  | start => exact moves_of_sameChannel h ⟨rfl, rfl, rfl, rfl⟩
  | write _ hsame hexec hr ih =>
    have hidle := ih.idle hsame
    simpa using hidle.trans (moves_chWrite hidle.ok hexec hr)
  | putb _ hsame hexec hr ih =>
    have hidle := ih.idle hsame
    simpa using hidle.trans (moves_chPutb hidle.ok hexec hr)
  | read _ hsame hfree hwhole hexec hr ih =>
    have hidle := ih.idle hsame
    simpa using hidle.trans (moves_chRead hidle.ok hfree hwhole hexec hr)
  | getb _ hsame hfree hwhole hexec hr ih =>
    have hidle := ih.idle hsame
    simpa using hidle.trans (moves_chGetb hidle.ok hfree hwhole hexec hr)
  | readStart _ hsame _ hstep hexec ih =>
    have hidle := ih.idle hsame
    simpa using hidle.trans (moves_chReadStart hidle.ok hstep hexec)
  | getbStart _ hsame hfree hstep hexec ih =>
    have hidle := ih.idle hsame
    simpa using hidle.trans (moves_chGetbStart hidle.ok hfree hstep hexec)
  | micro _ hsame hq hmicro ih =>
    have hidle := ih.idle hsame
    simpa using hidle.trans (moves_micro hidle.ok hq hmicro)

/-- With no read in progress a CORE with a good channel is ready for traffic. -/
theorem trafficOk_of_free {ch : Chan} {s : State} (hwf : s.cfg.wf = true) (hok : ChannelOk s.cfg s.core ch)
    (hfree : s.readPending ch = none) : TrafficOk ch s :=
  ⟨hwf, hok, fun q hq => by rw [hfree] at hq; cases hq⟩

theorem held_eq_nil {cfg : Config} {k : CoreState} {ch : Chan} (h : occ cfg k ch = 0) : held cfg k ch = [] :=
  List.eq_nil_of_length_eq_zero ((held_length ..).trans h)

/-- Settles O23: the queue equation of the whole traffic, cut where nothing is held at the start or at the end. -/
theorem fifoLaw : Obligations.FifoLaw := by
  intro ch s t n a b hwf hok hfree ht
  have hqueue := (ht.moves (trafficOk_of_free hwf hok hfree)).queue
  refine ⟨hqueue, fun hs => ?_, fun hs htend => ?_⟩ <;> rw [held_eq_nil hs, List.nil_append] at hqueue
  · obtain ⟨c, d, rfl, hc, -⟩ := List.map_eq_append_iff.1 hqueue
    exact List.map_injective_iff.2 (Option.some_injective _) hc ▸ List.prefix_append c d
  · rw [held_eq_nil htend, List.append_nil] at hqueue
    exact (List.map_injective_iff.2 (Option.some_injective _) hqueue).symm

/-- A channel that has accepted as many bytes as were free is full. -/
theorem free_eq_zero_of_filled {cfg : Config} {k l : CoreState} {ch : Chan} {bs : List Byte}
    (hk : ChannelOk cfg k ch) (hl : ChannelOk cfg l ch) (hheld : held cfg l ch = held cfg k ch ++ bs.map some)
    (hbs : bs.length = free cfg k ch) : free cfg l ch = 0 := by
  have hlen := congrArg List.length hheld
  simp only [List.length_append, List.length_map, held_length] at hlen
  have hroom := occ_add_free hk
  have hroom' := occ_add_free hl
  omega

/-- Settles O24: the single write by what CH.WRITE accepts (O20), the traffic by what each operation counts. -/
theorem overflowLaw : Obligations.OverflowLaw := by
  refine ⟨fun s ch len hmay hs hok hover => ?_, fun ch s t n a b hwf hok hfree ht => ?_⟩
  · obtain ⟨t, r, k, hexec, hk, ⟨hheld, -⟩, hgrow, -, -, -, -, -, hret, hcount⟩ :=
      chWriteAcceptsWhatFits.1 s ch len hmay hs hok
    obtain rfl : k = free s.cfg s.core ch := hk.trans (Nat.min_eq_right hover.le)
    have hlen : ((s.operandBytes len.toNat).take (free s.cfg s.core ch)).length = free s.cfg s.core ch := by
      simp [operandBytes_length hs, hover.le]
    have hokt := channelOk_of_chWrite hok hexec
    refine ⟨t, r, hexec, hret, hret.cfg ▸ hheld, hcount, hgrow hover, ?_⟩
    rw [hret.cfg] at hokt ⊢
    exact (isFull_iff hokt (two_le_cap hmay.wf ch)).2 (free_eq_zero_of_filled hok hokt hheld hlen)
  · obtain ⟨hchan, hcnt, -⟩ := hok
    have hmoves := ht.moves (trafficOk_of_free hwf (hchan ch) hfree)
    exact ⟨hmoves.accepted, hmoves.counted (hcnt _)⟩

end Sys2Proof.Machine
end

section
/-! The sequence number (41_codec.md R122): the parts of an operation leave the number and the frame output alone, but
for the build calls of TX.SEND and FRM.BUILD. -/

namespace Sys2Proof.Machine

/-! ### What a header is built from, and the frame presented -/

/-- What BuildHeader reads of a state (41_codec.md R120), and the frame output. -/
structure Numbering where
  cfg : Config
  filterKey : Addr
  ownAddr : Addr
  seq : BitVec 12
  tx : Option TxFrame

/-- The part of a state that the sequence-number law speaks of; `buildHeader_of_numbering` ties it to the header. -/
def State.numbering (s : State) : Numbering := ⟨s.cfg, s.core.filterKey, s.core.ownAddr, s.core.seq, s.tx⟩

theorem numbering_eq_iff {s t : State} :
    t.numbering = s.numbering ↔
      t.cfg = s.cfg ∧ t.core.filterKey = s.core.filterKey ∧ t.core.ownAddr = s.core.ownAddr ∧
        t.core.seq = s.core.seq ∧ t.tx = s.tx := by
  simp only [State.numbering, Numbering.mk.injEq]

/-- Of the architectural state a header reads the key and the address alone. -/
theorem buildHeader_congr {k l : CoreState} (hkey : k.filterKey = l.filterKey) (haddr : k.ownAddr = l.ownAddr)
    (cfg : Config) (n : BitVec 12) : buildHeader cfg k n = buildHeader cfg l n := by
  have hbyte : headerByte cfg k n = headerByte cfg l n := funext fun i => by simp only [headerByte, hkey, haddr]
  simp only [buildHeader, hbyte]

theorem buildHeader_of_numbering {s t : State} (h : t.numbering = s.numbering) :
    buildHeader t.cfg t.core t.core.seq = buildHeader s.cfg s.core s.core.seq := by
  obtain ⟨hcfg, hkey, haddr, hseq, -⟩ := numbering_eq_iff.1 h
  rw [hcfg, hseq, buildHeader_congr hkey haddr]

/-- From `s` to `t` one build call was made: the frame presented carries the header of the number `s` held, and the
number has advanced. -/
def SendsFrame (s t : State) : Prop :=
  t.core.seq = s.core.seq + 1 ∧
    ∃ len payload, t.tx = some ⟨len, buildHeader s.cfg s.core s.core.seq ++ payload⟩

/-- From `s` to `t` at most one build call was made, the one of a frame. -/
def SendsAtMostOne (s t : State) : Prop := t.numbering = s.numbering ∨ SendsFrame s t

theorem SendsAtMostOne.congr {s s' t t' : State} (h : SendsAtMostOne s t) (hs : s.numbering = s'.numbering)
    (ht : t'.numbering = t.numbering) : SendsAtMostOne s' t' := by
  rcases h with hsame | ⟨hseq, len, payload, hframe⟩
  · exact .inl (ht.trans (hsame.trans hs))
  · obtain ⟨-, -, -, hseqs, -⟩ := numbering_eq_iff.1 hs
    obtain ⟨-, -, -, hseqt, htx⟩ := numbering_eq_iff.1 ht
    exact .inr ⟨by rw [hseqt, hseq, hseqs], len, payload, by rw [htx, hframe, buildHeader_of_numbering hs]⟩

/-- The sequence number counts modulo 4096. -/
theorem toNat_nextNumber (n : BitVec 12) : (n + 1).toNat = (n.toNat + 1) % 4096 := by simp [BitVec.toNat_add]

/-! ### The parts of an operation that make no build call -/

@[simp] theorem receive_seq (cfg : Config) (k : CoreState) (n : Nat) (data : List Byte) :
    (k.receive cfg n data).seq = k.seq := by simp [CoreState.receive, readPublish]

theorem numbering_setCore {s : State} {k : CoreState} (h : SameOffChannels s.core k) :
    (s.setCore k).numbering = s.numbering := by
  obtain ⟨hseq, -, -, -, -, -, hkey, haddr⟩ := h
  exact numbering_eq_iff.2 ⟨rfl, hkey, haddr, hseq, rfl⟩

@[simp] theorem numbering_readPublish (s : State) (ch : Chan) (n : Nat) :
    (s.setCore (readPublish s.cfg s.core ch n)).numbering = s.numbering :=
  numbering_setCore (readPublish_sameOffChannels ..)

@[simp] theorem numbering_receive (s : State) (n : Nat) (data : List Byte) :
    (s.setCore (s.core.receive s.cfg n data)).numbering = s.numbering := by simp [numbering_eq_iff]

@[simp] theorem numbering_bump (s : State) (c : Counter) (v : Nat) :
    (s.setCore (s.core.bump s.cfg c v)).numbering = s.numbering := numbering_setCore (sameOffChannels_bump ..)

@[simp] theorem numbering_finish (s : State) (r : PortResult) : (s.finish r).numbering = s.numbering := by
  simp [numbering_eq_iff]

@[simp] theorem numbering_pause (s : State) (m : Micro) : (s.pause m).numbering = s.numbering := rfl

@[simp] theorem numbering_noteUse (s : State) (a : Access) : (s.noteUse a).numbering = s.numbering := rfl

@[simp] theorem numbering_setPortIn (s : State) (p : Port) (q : PortIn) :
    (s.setPortIn p q).numbering = s.numbering := by simp [numbering_eq_iff]

@[simp] theorem numbering_endTick (s : State) : (endTick s).numbering = s.numbering := numbering_finish ..

@[simp] theorem numbering_endRead (ch : Chan) (n : Nat) (data : List Byte) (s : State) :
    (endRead ch n data s).numbering = s.numbering := by simp [endRead]

@[simp] theorem numbering_endGetb (ch : Chan) (b : Byte) (s : State) :
    (endGetb ch b s).numbering = s.numbering := by simp [endGetb]

@[simp] theorem numbering_endSend (r : SendResult) (s : State) : (endSend r s).numbering = s.numbering := by
  simp [endSend, sendCount]

@[simp] theorem numbering_tickCount (r : SendResult) (s : State) : (tickCount r s).numbering = s.numbering := by
  simp [tickCount, sendCount, numbering_eq_iff]

@[simp] theorem numbering_tickBadSend (s : State) : (tickBadSend s).numbering = s.numbering := by
  simp [tickBadSend, numbering_eq_iff]

@[simp] theorem numbering_tickDiscard (s : State) : (tickDiscard s).numbering = s.numbering := by
  simp [tickDiscard]

@[simp] theorem numbering_tickTakeHeader (n : Nat) (data : List Byte) (s : State) :
    (tickTakeHeader n data s).numbering = s.numbering := by
  unfold tickTakeHeader
  simp only
  split
  · simp
  · simp [numbering_eq_iff, readPublish]

@[simp] theorem numbering_tickFirst (s : State) : (tickFirst s).numbering = s.numbering := by
  unfold tickFirst
  split
  · split <;> simp
  · simp

theorem numbering_tickTakePayload {n : Nat} {data : List Byte} {s t : State}
    (h : tickTakePayload n data s = .next t) : t.numbering = s.numbering := by
  obtain ⟨_, rfl, ⟨-, rfl⟩ | ⟨-, rfl⟩⟩ := tickTakePayload_next h <;> simp

/-! ### The parts that may make one -/

/-- The atomic block of TX.SEND finds the flag clear, or makes the one build call. -/
theorem sendsAtMostOne_sendAttempt (payload : List Byte) (s : State) :
    SendsAtMostOne s (sendAttempt payload s).2 := by
  rcases sendAttempt_cases payload s with ⟨-, h⟩ | ⟨-, -, hcore, htx, -⟩
  · rw [h]
    exact .inl rfl
  · exact .inr ⟨by rw [hcore]; rfl, _, payload, htx⟩

theorem sendsAtMostOne_tickSend (s : State) : SendsAtMostOne s (tickSend s) := by
  unfold tickSend
  split
  · exact .inl (numbering_tickBadSend s)
  · exact (sendsAtMostOne_sendAttempt _ s).congr rfl (numbering_tickCount ..)

theorem sendsAtMostOne_tickAttempt (s : State) : SendsAtMostOne s (tickAttempt s) := by
  unfold tickAttempt
  split
  · exact .inl (numbering_tickBadSend s)
  · exact (sendsAtMostOne_sendAttempt _ s).congr rfl (numbering_pause ..)

theorem sendsAtMostOne_tickAccumulate {s t : State} (h : tickAccumulate s = .next t) : SendsAtMostOne s t := by
  obtain ⟨n, data, _, -, -, rfl, ⟨-, rfl⟩ | ⟨-, rfl⟩⟩ := tickAccumulate_next h
  · exact (sendsAtMostOne_tickSend _).congr (numbering_receive ..) rfl
  · exact .inl (by simp)

theorem sendsAtMostOne_tickHeader {s t : State} (h : tickHeader s = .next t) : SendsAtMostOne s t := by
  obtain rfl | ⟨-, rfl⟩ | ⟨l, -, -, hpayload⟩ := tickHeader_next h
  · exact .inl (by simp)
  · exact .inl (by simp)
  · exact (sendsAtMostOne_tickAccumulate hpayload).congr (by simp [numbering_eq_iff, readPublish]) rfl

/-- Of the micro-steps only the atomic block of a tick can make a build call. -/
theorem sendsAtMostOne_microStep {m : Micro} {s t : State} (h : microStep m s = .next t) : SendsAtMostOne s t := by
  cases hwf : s.cfg.wf with
  | false => rw [microStep_of_broken hwf] at h; cases h
  | true =>
    simp only [microStep, hwf, Bool.true_eq_false, if_false] at h
    cases m
    case tickSend => cases h; exact sendsAtMostOne_tickAttempt s
    case tickPayloadPublish => exact .inl (numbering_tickTakePayload h)
    all_goals cases h; exact .inl (by simp)

/-- Of the operations but SYS.INIT and FRM.BUILD, only TX.SEND and the tick can make a build call. -/
theorem Ran.sendsAtMostOne {i : Instr} {s t : State} (h : Ran s i t) (hsys : i ≠ .sysInit)
    (hbuild : i ≠ .frmBuild) : SendsAtMostOne s t := by
  cases h with
  | sysInit => exact absurd rfl hsys
  | frmBuild => exact absurd rfl hbuild
  | raTickHeader _ _ _ h => exact (sendsAtMostOne_tickHeader h).congr (numbering_noteUse ..) rfl
  | raTickPayload _ _ _ h => exact (sendsAtMostOne_tickAccumulate h).congr (numbering_noteUse ..) rfl
  | txSendStart _ _ _ _ _ _ ha =>
    subst ha
    exact (sendsAtMostOne_sendAttempt _ _).congr (numbering_setPortIn ..) (numbering_pause ..)
  | txSend _ _ _ _ _ _ ha =>
    subst ha
    exact (sendsAtMostOne_sendAttempt _ _).congr (numbering_setPortIn ..) (numbering_endSend ..)
  | chWrite ch len =>
    obtain ⟨hseq, -, -, -, -, -, hkey, haddr⟩ :=
      sameOffChannels_writeChan s.cfg s.core ch (s.operandBytes len.toNat)
    exact .inl (by simp [numbering_eq_iff, hseq, hkey, haddr])
  | rxCapture _ data =>
    obtain ⟨hseq, -, -, -, -, -, hkey, haddr⟩ := sameOffChannels_writeChan s.cfg s.core .chOut data
    exact .inl (by simp [numbering_eq_iff, hseq, hkey, haddr])
  | _ => exact .inl (by simp [numbering_eq_iff, writeStore])

/-! ### The law -/

theorem Starts.numbering {s u : State} (h : Starts s u) : u.numbering = s.quiet.numbering := by
  obtain ⟨hcore, hcfg, -, -, -, htx⟩ := h
  simp [numbering_eq_iff, hcore, hcfg, htx]

/-- FRM.BUILD, on port T, returns the header of the number that stood. -/
theorem Ran.frmBuild_result {s t : State} (h : Ran s .frmBuild t) :
    t.core.seq = s.core.seq + 1 ∧ ∃ r, t.resT = some r ∧ r.dout = buildHeader s.cfg s.core s.core.seq := by
  cases h with
  | frmBuild hg =>
    have hport : (s.setCore s.core.advanceSeq).cur.port = .t := port_of_gate_tickPort hg
    have hres := State.finish_result_self (s.setCore s.core.advanceSeq)
      { freeResult s.cur.ticket with dout := buildHeader s.cfg s.core s.core.seq }
    rw [hport] at hres
    exact ⟨by simp, _, hres, rfl⟩

/-- A step makes at most the build call of a frame, the pulse of the step before being over, or it is FRM.BUILD. -/
theorem step_numbers {s t : State} (h : step s = .next t) (hsys : ¬ Issues s .sysInit) :
    (SendsAtMostOne s.quiet t ∧ ¬ Issues s .frmBuild) ∨
    (t.core.seq = s.core.seq + 1 ∧ Issues s .frmBuild ∧
      ∃ r, t.resT = some r ∧ r.dout = buildHeader s.cfg s.core s.core.seq) := by
  cases step_next h with
  | idle hs hno => exact .inl ⟨.inl hs.numbering, hno _⟩
  | resume q u _ _ hs _ hno hmicro => exact .inl ⟨(sendsAtMostOne_microStep hmicro).congr hs.numbering rfl, hno _⟩
  | issue p c cs i u _ _ _ hs _ _ hiss hran =>
    by_cases hbuild : i = .frmBuild
    · subst hbuild
      obtain ⟨hcore, hcfg, -⟩ := hs
      rw [← hcore, ← hcfg]
      obtain ⟨hseq, hres⟩ := hran.frmBuild_result
      exact .inr ⟨hseq, (hiss _).2 rfl, hres⟩
    · have hone := hran.sendsAtMostOne (fun e => hsys ((hiss _).2 e.symm)) hbuild
      exact .inl ⟨hone.congr hs.numbering rfl, fun hi => hbuild ((hiss _).1 hi).symm⟩

/-- Settles O28: of what a step can do, FRM.BUILD makes the build call of a result, and all else but SYS.INIT at most
the one of a frame. -/
theorem sequenceNumberLaw : Obligations.SequenceNumberLaw := by
  intro s t h hsys
  rcases step_numbers h hsys with ⟨hsame | ⟨hseq, hframe⟩, hno⟩ | ⟨hseq, hbuild, hres⟩
  · obtain ⟨-, -, -, hseq, htx⟩ := numbering_eq_iff.1 hsame
    exact .inl ⟨hseq, htx, hno⟩
  · exact .inr ⟨hseq ▸ toNat_nextNumber s.core.seq, .inl hframe⟩
  · exact .inr ⟨hseq ▸ toNat_nextNumber s.core.seq, .inr ⟨hbuild, hres⟩⟩

end Sys2Proof.Machine
end

section
/-! The bytes of a header (41_codec.md R120, 30_encoding.md R76), and what FRM.PARSE reads of a byte string (R123,
R124). -/

namespace Sys2Proof

/-! ### The header fields (00_scope.md R7) -/

/-- Byte `i` lies in the header field `f`. -/
def InField (f : Nat × Nat) (i : Nat) : Prop := f.1 ≤ i ∧ i < f.1 + f.2

theorem inField_add {o n j : Nat} (h : j < n) : InField (o, n) (o + j) :=
  ⟨Nat.le_add_right .., Nat.add_lt_add_left h o⟩

theorem apart_comm {f g : Nat × Nat} : apart f g ↔ apart g f := or_comm

theorem not_inField_of_apart {f g : Nat × Nat} {i : Nat} (h : apart f g) (hi : InField f i) : ¬ InField g i := by
  obtain ⟨hlo, hhi⟩ := hi
  rintro ⟨hlo', hhi'⟩
  rcases h with h | h <;> omega

/-- A byte of one header field lies in none of the others. -/
theorem Config.not_inField_of_wf {c : Config} (h : c.wf = true) {l r : List (Nat × Nat)} {f : Nat × Nat}
    (hc : c.headerFields = l ++ f :: r) {i : Nat} (hi : InField f i) : ∀ g ∈ l ++ r, ¬ InField g i := by
  obtain ⟨-, -, -, -, -, -, -, hpair⟩ := Config.wf_iff.1 h
  rw [hc, List.pairwise_append, List.pairwise_cons] at hpair
  obtain ⟨-, ⟨hafter, -⟩, hbefore⟩ := hpair
  intro g hg
  rcases List.mem_append.1 hg with hl | hr
  · exact not_inField_of_apart (apart_comm.1 (hbefore g hl f List.mem_cons_self)) hi
  · exact not_inField_of_apart (hafter g hr) hi

/-- A byte of a header field lies in the header. -/
theorem Config.lt_of_inField {c : Config} (h : c.wf = true) {f : Nat × Nat} (hf : f ∈ c.headerFields) {i : Nat}
    (hi : InField f i) : i < 24 := by
  obtain ⟨-, -, -, -, -, -, hinside, -⟩ := Config.wf_iff.1 h
  exact hi.2.trans_le (hinside f hf)

@[simp] theorem Addr.bytes_length (a : Addr) : a.bytes.length = 6 := rfl

theorem Addr.bytes_injective {a b : Addr} (h : a.bytes = b.bytes) : a = b := by
  cases a; cases b; simpa [Addr.bytes] using h

end Sys2Proof

namespace Sys2Proof.Machine

/-! ### The bytes of a header, field by field -/

section
variable {cfg : Config} (k : CoreState) (s : BitVec 12) {i j : Nat}

theorem headerByte_offFc : headerByte cfg k s cfg.offFc = cfg.frameTypeCode := if_pos rfl

/-- Outside the six fields that BuildHeader writes, and in the second byte of the first, a header is zero. -/
theorem headerByte_eq_zero (hfc : i ≠ cfg.offFc) (h1 : ¬ InField (cfg.offA1, 6) i) (h2 : ¬ InField (cfg.offA2, 6) i)
    (h3 : ¬ InField (cfg.offA3, 6) i) (hseq : ¬ InField (cfg.offSeq, 2) i) : headerByte cfg k s i = 0 := by
  simp only [InField] at h1 h2 h3 hseq
  rw [headerByte, if_neg hfc, if_neg h1, if_neg h2, if_neg h3, if_neg (by omega), if_neg (by omega)]

theorem headerByte_offFc_succ (h : cfg.wf = true) : headerByte cfg k s (cfg.offFc + 1) = 0 := by
  have hother := Config.not_inField_of_wf h (l := []) rfl (inField_add (n := 2) (j := 1) (by decide))
  simp only [List.nil_append, List.forall_mem_cons] at hother
  obtain ⟨-, h1, h2, h3, hseq, -⟩ := hother
  exact headerByte_eq_zero k s (by omega) h1 h2 h3 hseq

theorem headerByte_offDur (h : cfg.wf = true) (hj : j < 2) : headerByte cfg k s (cfg.offDur + j) = 0 := by
  have hother := Config.not_inField_of_wf h (l := [_]) rfl (inField_add (n := 2) hj)
  simp only [List.cons_append, List.nil_append, List.forall_mem_cons] at hother
  obtain ⟨hfc, h1, h2, h3, hseq, -⟩ := hother
  refine headerByte_eq_zero k s (fun e => hfc ?_) h1 h2 h3 hseq
  rw [e]; exact inField_add (j := 0) (by decide)

theorem headerByte_offA1 (h : cfg.wf = true) (hj : j < 6) :
    headerByte cfg k s (cfg.offA1 + j) = cfg.bcastAddr.bytes.getD j 0 := by
  have hother := Config.not_inField_of_wf h (l := [_, _]) rfl (inField_add (n := 6) hj)
  simp only [List.cons_append, List.nil_append, List.forall_mem_cons, InField] at hother
  obtain ⟨hfc, -⟩ := hother
  rw [headerByte, if_neg (by omega), if_pos (by omega), Nat.add_sub_cancel_left]

theorem headerByte_offA2 (h : cfg.wf = true) (hj : j < 6) :
    headerByte cfg k s (cfg.offA2 + j) = k.ownAddr.bytes.getD j 0 := by
  have hother := Config.not_inField_of_wf h (l := [_, _, _]) rfl (inField_add (n := 6) hj)
  simp only [List.cons_append, List.nil_append, List.forall_mem_cons, InField] at hother
  obtain ⟨hfc, -, h1, -⟩ := hother
  rw [headerByte, if_neg (by omega), if_neg h1, if_pos (by omega), Nat.add_sub_cancel_left]

theorem headerByte_offA3 (h : cfg.wf = true) (hj : j < 6) :
    headerByte cfg k s (cfg.offA3 + j) = k.filterKey.bytes.getD j 0 := by
  have hother := Config.not_inField_of_wf h (l := [_, _, _, _]) rfl (inField_add (n := 6) hj)
  simp only [List.cons_append, List.nil_append, List.forall_mem_cons, InField] at hother
  obtain ⟨hfc, -, h1, h2, -⟩ := hother
  rw [headerByte, if_neg (by omega), if_neg h1, if_neg h2, if_pos (by omega), Nat.add_sub_cancel_left]

/-- At OFF_SEQ the header is decided by which of the two bytes is asked for. -/
theorem headerByte_offSeq (h : cfg.wf = true) (hj : j < 2) :
    headerByte cfg k s (cfg.offSeq + j) = if j = 0 then lo8 (seqField s) else hi8 (seqField s) := by
  have hother := Config.not_inField_of_wf h (l := [_, _, _, _, _]) rfl (inField_add (n := 2) hj)
  simp only [List.cons_append, List.nil_append, List.forall_mem_cons, InField] at hother
  obtain ⟨hfc, -, h1, h2, h3, -⟩ := hother
  rw [headerByte, if_neg (by omega), if_neg h1, if_neg h2, if_neg h3]
  obtain rfl | rfl : j = 0 ∨ j = 1 := by omega
  · simp
  · simp

@[simp] theorem buildHeader_length : (buildHeader cfg k s).length = 24 := by simp [buildHeader]

theorem getElem?_buildHeader (hi : i < 24) : (buildHeader cfg k s)[i]? = some (headerByte cfg k s i) := by
  simp [buildHeader, hi]

/-- The bytes of a field stand in the header. -/
theorem getElem?_buildHeader_field (h : cfg.wf = true) {o n : Nat} {b : Byte} (hf : (o, n) ∈ cfg.headerFields)
    (hj : j < n) (hb : headerByte cfg k s (o + j) = b) : (buildHeader cfg k s)[o + j]? = some b :=
  hb ▸ getElem?_buildHeader k s (Config.lt_of_inField h hf (inField_add hj))

end

/-- An address stands in a byte string at an offset. -/
def HoldsAddr (bs : List Byte) (o : Nat) (a : Addr) : Prop := ∀ j, j < 6 → bs[o + j]? = a.bytes[j]?

section
variable {cfg : Config} (h : cfg.wf = true) (k : CoreState) (s : BitVec 12)
include h

theorem holdsAddr_buildHeader {o : Nat} {a : Addr} (hf : (o, 6) ∈ cfg.headerFields)
    (hbyte : ∀ j, j < 6 → headerByte cfg k s (o + j) = a.bytes.getD j 0) : HoldsAddr (buildHeader cfg k s) o a := by
  intro j hj
  rw [getElem?_buildHeader_field k s h hf hj (hbyte j hj), List.getD_eq_getElem?_getD,
    List.getElem?_eq_getElem (by simpa using hj), Option.getD_some]

theorem holdsAddr_offA1 : HoldsAddr (buildHeader cfg k s) cfg.offA1 cfg.bcastAddr :=
  holdsAddr_buildHeader h k s (by simp [Config.headerFields]) fun _ => headerByte_offA1 k s h

theorem holdsAddr_offA2 : HoldsAddr (buildHeader cfg k s) cfg.offA2 k.ownAddr :=
  holdsAddr_buildHeader h k s (by simp [Config.headerFields]) fun _ => headerByte_offA2 k s h

theorem holdsAddr_offA3 : HoldsAddr (buildHeader cfg k s) cfg.offA3 k.filterKey :=
  holdsAddr_buildHeader h k s (by simp [Config.headerFields]) fun _ => headerByte_offA3 k s h

theorem buildHeader_offFc : (buildHeader cfg k s)[cfg.offFc]? = some cfg.frameTypeCode :=
  getElem?_buildHeader_field k s h (n := 2) (j := 0) (by simp [Config.headerFields]) (by decide) (headerByte_offFc k s)

theorem buildHeader_offFc_succ : (buildHeader cfg k s)[cfg.offFc + 1]? = some 0 :=
  getElem?_buildHeader_field k s h (n := 2) (by simp [Config.headerFields]) (by decide) (headerByte_offFc_succ k s h)

theorem buildHeader_offDur {j : Nat} (hj : j < 2) : (buildHeader cfg k s)[cfg.offDur + j]? = some 0 :=
  getElem?_buildHeader_field k s h (by simp [Config.headerFields]) hj (headerByte_offDur k s h hj)

theorem buildHeader_offSeq {j : Nat} (hj : j < 2) :
    (buildHeader cfg k s)[cfg.offSeq + j]? = some (if j = 0 then lo8 (seqField s) else hi8 (seqField s)) :=
  getElem?_buildHeader_field k s h (by simp [Config.headerFields]) hj (headerByte_offSeq k s h hj)

theorem buildHeader_offSeq_lo : (buildHeader cfg k s)[cfg.offSeq]? = some (lo8 (seqField s)) :=
  buildHeader_offSeq h k s (j := 0) (by decide)

theorem buildHeader_offSeq_hi : (buildHeader cfg k s)[cfg.offSeq + 1]? = some (hi8 (seqField s)) :=
  buildHeader_offSeq h k s (j := 1) (by decide)

end

/-! ### The sequence field (20_memory.md R55) -/

theorem toNat_append_eq {m n : Nat} (x : BitVec m) (y : BitVec n) :
    (x ++ y).toNat = 2 ^ n * x.toNat + y.toNat := by
  rw [BitVec.toNat_append, Nat.shiftLeft_eq, Nat.mul_comm, Nat.two_pow_add_eq_or_of_lt y.isLt]

theorem toNat_seqField (s : BitVec 12) : (seqField s).toNat = 16 * s.toNat := by
  rw [seqField, toNat_append_eq]; rfl

theorem toNat_be16 (b0 b1 : Byte) : (be16 b0 b1).toNat = 256 * b0.toNat + b1.toNat := toNat_append_eq b0 b1

theorem toNat_lo8 (v : Half) : (lo8 v).toNat = v.toNat % 256 := by simp [lo8]

theorem toNat_hi8 (v : Half) : (hi8 v).toNat = v.toNat / 256 := by
  have := v.isLt
  simp [hi8, Nat.shiftRight_eq_div_pow]
  omega

@[simp] theorem be16_hi8_lo8 (v : Half) : be16 (hi8 v) (lo8 v) = v :=
  BitVec.eq_of_toNat_eq (by rw [toNat_be16, toNat_hi8, toNat_lo8]; omega)

/-- A 16-bit field is its number in bits 15:4 and its reserved bits 3:0. -/
theorem toNat_number_reserved (v : Half) :
    v.toNat = 16 * (v.extractLsb' 4 12).toNat + (v.extractLsb' 0 4).toNat := by
  have := v.isLt
  simp only [BitVec.extractLsb'_toNat, Nat.shiftRight_eq_div_pow]
  omega

@[simp] theorem number_seqField (s : BitVec 12) : (seqField s).extractLsb' 4 12 = s := by
  refine BitVec.eq_of_toNat_eq ?_
  have := s.isLt
  rw [BitVec.extractLsb'_toNat, toNat_seqField, Nat.shiftRight_eq_div_pow]
  omega

@[simp] theorem reserved_seqField (s : BitVec 12) : (seqField s).extractLsb' 0 4 = 0 := by
  refine BitVec.eq_of_toNat_eq ?_
  rw [BitVec.extractLsb'_toNat, toNat_seqField, Nat.shiftRight_eq_div_pow]
  simp

/-! ### What FRM.PARSE reads of a body (R123, R124) -/

theorem bodyByte_of_getElem? {body : List Byte} {i : Nat} {x : Byte} (h : body[i]? = some x) (ticket : Nat) :
    bodyByte ticket body i = x := by rw [bodyByte, h, Option.getD_some]

theorem bodyAddr_bytes (ticket : Nat) (body : List Byte) (o : Nat) {j : Nat} (hj : j < 6) :
    (bodyAddr ticket body o).bytes[j]? = some (bodyByte ticket body (o + j)) := by
  match j, hj with
  | 0, _ | 1, _ | 2, _ | 3, _ | 4, _ | 5, _ => rfl

/-- A captured byte of an address is read as it is. -/
theorem bodyAddr_bytes_of_getElem? {body : List Byte} {o j : Nat} {x : Byte} (ticket : Nat) (hj : j < 6)
    (h : body[o + j]? = some x) : (bodyAddr ticket body o).bytes[j]? = some x := by
  rw [bodyAddr_bytes ticket body o hj, bodyByte_of_getElem? h]

/-- An address that a body holds is read back. -/
theorem HoldsAddr.bodyAddr_eq {body : List Byte} {o : Nat} {a : Addr} (h : HoldsAddr body o a) (ticket : Nat) :
    bodyAddr ticket body o = a := by
  refine Addr.bytes_injective (List.ext_getElem? fun j => ?_)
  by_cases hj : j < 6
  · have hsome := List.getElem?_eq_getElem (l := a.bytes) (i := j) (by simpa using hj)
    rw [hsome]
    exact bodyAddr_bytes_of_getElem? ticket hj ((h j hj).trans hsome)
  · rw [List.getElem?_eq_none (by simpa using hj), List.getElem?_eq_none (by simpa using hj)]

/-- What follows the bytes of a body does not hide them. -/
theorem getElem?_append_of_some {bs rest : List Byte} {i : Nat} {x : Byte} (h : bs[i]? = some x) :
    (bs ++ rest)[i]? = some x := by
  obtain ⟨hi, -⟩ := List.getElem?_eq_some_iff.1 h
  rw [List.getElem?_append_left hi, h]

theorem HoldsAddr.append {bs : List Byte} {o : Nat} {a : Addr} (h : HoldsAddr bs o a) (rest : List Byte) :
    HoldsAddr (bs ++ rest) o a := by
  intro j hj
  have hsome := List.getElem?_eq_getElem (l := a.bytes) (i := j) (by simpa using hj)
  exact (getElem?_append_of_some ((h j hj).trans hsome)).trans hsome.symm

theorem payloadLen_eq (l : Half) : payloadLen l = (l.toNat : Int) - 28 := by
  rw [payloadLen]; omega

/-! ### The statements -/

/-- Settles O30: the subtraction is over the integers, and the length has 16 bits. -/
theorem payloadLengthNeverWraps : Obligations.PayloadLengthNeverWraps := by
  intro l
  have hlt := l.isLt
  rw [payloadLen_eq]
  omega

/-- Settles O26: each field of the header holds its bytes. -/
theorem buildHeaderLayout : Obligations.BuildHeaderLayout := by
  intro cfg k s h
  refine ⟨buildHeader_length k s, buildHeader_offFc h k s, buildHeader_offFc_succ h k s,
    buildHeader_offDur h k s (j := 0) (by decide), buildHeader_offDur h k s (by decide),
    fun j hj => ⟨holdsAddr_offA1 h k s j hj, holdsAddr_offA2 h k s j hj, holdsAddr_offA3 h k s j hj⟩,
    _, _, buildHeader_offSeq_lo h k s, buildHeader_offSeq_hi h k s, ?_, ?_⟩
  · rw [toNat_lo8, toNat_seqField]; omega
  · rw [toNat_hi8, toNat_seqField]; omega

/-- Settles O27: FRM.BUILD ends with the header of the old number as its result; port E does not pass the gate. -/
theorem frmBuildTakesANumber : Obligations.FrmBuildTakesANumber := by
  refine ⟨fun s h => ?_, fun s ⟨hwf, hinit, hport⟩ => ?_⟩
  · exact ⟨_, _, exec_of_ran (.frmBuild (gate_tickPort h)), by simp [CoreState.advanceSeq],
      by simp, by simp, by simp, returns_finish_zero rfl rfl, rfl⟩
  · exact exec_of_gate (i := .frmBuild) (by simp [gateOf, accessOf, gate, portRefusal, hwf, hinit, hport])

/-- Settles O29: FRM.PARSE ends with the fields of the bytes it takes as its result. -/
theorem frmParseReturnsTheFields : Obligations.FrmParseReturnsTheFields := by
  intro s p count h hs
  refine ⟨_, _, _, rfl, exec_of_ran (.frmParse count (gate_anyPort h) hs), by simp, by simp, by simp,
    returns_finish rfl rfl, fun x hx => bodyByte_of_getElem? hx _,
    fun j x hj hx => bodyAddr_bytes_of_getElem? _ hj hx, fun j x hj hx => bodyAddr_bytes_of_getElem? _ hj hx,
    fun j x hj hx => bodyAddr_bytes_of_getElem? _ hj hx, fun lo hi hlo hhi => ?_, payloadLen_eq _, rfl, rfl,
    by simp [parseFields], fun i x hi hx => ?_⟩
  · simp only [parseFields, bodyByte_of_getElem? hlo, bodyByte_of_getElem? hhi]
    rw [← toNat_number_reserved, toNat_be16]
  · simp only [parseFields] at hi ⊢
    simp [hi, bodyByte_of_getElem? hx]

/-- Settles O31: FRM.PARSE reads each field where BuildHeader wrote it. -/
theorem parseReadsWhatBuildWrote : Obligations.ParseReadsWhatBuildWrote := by
  intro cfg k s op rest h
  have hlo := bodyByte_of_getElem? (getElem?_append_of_some (rest := rest) (buildHeader_offSeq_lo h k s)) op.ticket
  have hhi := bodyByte_of_getElem? (getElem?_append_of_some (rest := rest) (buildHeader_offSeq_hi h k s)) op.ticket
  refine ⟨bodyByte_of_getElem? (getElem?_append_of_some (buildHeader_offFc h k s)) _,
    ((holdsAddr_offA1 h k s).append rest).bodyAddr_eq _, ((holdsAddr_offA2 h k s).append rest).bodyAddr_eq _,
    ((holdsAddr_offA3 h k s).append rest).bodyAddr_eq _, ?_, ?_⟩
  · simp only [parseFields, hlo, hhi, be16_hi8_lo8, number_seqField]
  · simp only [parseFields, hlo, hhi, be16_hi8_lo8, reserved_seqField]

end Sys2Proof.Machine
end

section
/-! The four stages of the receive filter as one law, and the append of an accepted capture (42_filter.md R135 to
R140). -/

namespace Sys2Proof.Machine

theorem gate_capture {s : State} (h : Ready s .e) (huse : s.runUse.directOut = false) : gate s .capture = none := by
  obtain ⟨hwf, hinit, hport⟩ := h
  exact gate_eq_none.2 ⟨hwf, hinit, portRefusal_capture.2 ⟨hport, huse⟩⟩

theorem resE_finish {s : State} (h : s.cur.port = .e) (r : PortResult) : (s.finish r).resE = some r := by
  simpa only [h, State.result] using State.finish_result_self s r

/-! ### What a captured byte decides -/

/-- A byte that the capture holds is no draw. -/
theorem bodyByte_eq_iff {body : List Byte} {i : Nat} (hi : i < body.length) (ticket : Nat) (x : Byte) :
    bodyByte ticket body i = x ↔ body[i]? = some x := by
  rw [bodyByte_of_getElem? (List.getElem?_eq_getElem hi), List.getElem?_eq_getElem hi, Option.some_inj]

/-- An address that the capture holds whole is compared position by position. -/
theorem bodyAddr_eq_iff {body : List Byte} {o : Nat} (ho : o + 6 ≤ body.length) (ticket : Nat) (a : Addr) :
    bodyAddr ticket body o = a ↔ HoldsAddr body o a := by
  refine ⟨fun h j hj => ?_, fun h => h.bodyAddr_eq ticket⟩
  rw [← h, bodyAddr_bytes ticket body o hj, ← bodyByte_eq_iff (by omega)]

/-! ### The acceptance law (R138) -/

/-- A capture passes the four ordered stages exactly where each of their tests passes. -/
theorem rejectedAt_eq_none {cfg : Config} {k : CoreState} {op : Presented} {count : Half} {body : List Byte} :
    rejectedAt cfg k op count body = none ↔
      op.modInd = cfg.modBaseline ∧ cfg.minCaptureLen ≤ count.toNat ∧
      (parseFields cfg op body).fc = cfg.frameTypeCode ∧ (parseFields cfg op body).a3 = k.filterKey ∧
      1 ≤ (parseFields cfg op body).plen ∧ (parseFields cfg op body).plen ≤ cfg.maxPayload := by
  simp only [rejectedAt, ite_eq_iff, reduceCtorEq, and_false, false_or, and_true, not_not, not_lt, not_or, not_le]
  exact and_congr_right' (and_congr_right' (and_congr_right' (and_congr_right' and_comm)))

/-- The minimum capture length leaves room for a whole header (00_scope.md R7). -/
theorem header_le_bodyLen {cfg : Config} {count : Half} (h : cfg.wf = true)
    (hcount : cfg.minCaptureLen ≤ count.toNat) : 24 ≤ bodyLen cfg count := by
  obtain ⟨-, -, -, -, hmin, -⟩ := Config.wf_iff.1 h
  rw [bodyLen]
  omega

/-- R138 on the bytes of the body: stages 2 and 3 come after the length test, so they read captured bytes only. -/
theorem rejectedAt_eq_none_iff_bytes {cfg : Config} {k : CoreState} {op : Presented} {count : Half}
    {body : List Byte} (h : cfg.wf = true) (hbody : body.length = bodyLen cfg count) :
    rejectedAt cfg k op count body = none ↔
      op.modInd = cfg.modBaseline ∧ cfg.minCaptureLen ≤ count.toNat ∧
      body[cfg.offFc]? = some cfg.frameTypeCode ∧ HoldsAddr body cfg.offA3 k.filterKey ∧
      1 ≤ (op.legacyLen.toNat : Int) - 28 ∧ (op.legacyLen.toNat : Int) - 28 ≤ cfg.maxPayload := by
  obtain ⟨-, -, -, -, -, -, hinside, -⟩ := Config.wf_iff.1 h
  have hfc : cfg.offFc + 2 ≤ 24 := hinside (_, 2) (by simp [Config.headerFields])
  have ha3 : cfg.offA3 + 6 ≤ 24 := hinside (_, 6) (by simp [Config.headerFields])
  rw [rejectedAt_eq_none, ← payloadLen_eq]
  refine and_congr_right fun _ => and_congr_right fun hcount => ?_
  have hheader := header_le_bodyLen h hcount
  exact and_congr (bodyByte_eq_iff (by omega) _ _) (and_congr_left' (bodyAddr_eq_iff (by omega) _ _))

/-! ### The data of an accepted capture (R137) -/

/-- What an accepted capture appends: the length the sideband states, big-endian, then that many payload bytes, which
are the captured ones from offset 24 on where the capture holds them (R140). -/
theorem captureData_parseFields (cfg : Config) (op : Presented) (body : List Byte) :
    ∃ (l : Half) (payload : List Byte), captureData (parseFields cfg op body) = hi8 l :: lo8 l :: payload ∧
      l.toNat = op.legacyLen.toNat - 28 ∧ payload.length = l.toNat ∧
      ∀ i x, i < l.toNat → body[24 + i]? = some x → payload[i]? = some x := by
  have hlt := op.legacyLen.isLt
  have hlen : (parseFields cfg op body).payload.length = op.legacyLen.toNat - 28 := by
    simp only [parseFields, payloadLen_eq, List.length_map, List.length_range]
    omega
  have hl : (BitVec.ofNat 16 (parseFields cfg op body).plen.toNat).toNat = op.legacyLen.toNat - 28 := by
    simp only [parseFields, payloadLen_eq, BitVec.toNat_ofNat]
    omega
  refine ⟨_, _, rfl, hl, hlen.trans hl.symm, fun i x hi hx => ?_⟩
  rw [hl, ← hlen] at hi
  simp only [parseFields, List.length_map, List.length_range] at hi ⊢
  simp [hi, bodyByte_of_getElem? hx]

/-! ### The state after an accepted capture (R136, R137) -/

theorem writeChan_chan_of_ne {a ch : Chan} (h : a ≠ ch) (cfg : Config) (k : CoreState) (data : List Byte) :
    (writeChan cfg k ch data).2.chan a = k.chan a := by
  rcases (writeChan_cases cfg k ch data).2 with ⟨-, hw⟩ | ⟨-, hw⟩ <;> rw [hw]
  · exact writeStore_chan_of_ne h ..
  · rw [CoreState.bump_chan, writeStore_chan_of_ne h]

/-- Adding the data of an accepted capture to CH_OUT under the channel's own rule, and counting the capture. -/
def CoreState.capture (cfg : Config) (k : CoreState) (data : List Byte) : CoreState :=
  (writeChan cfg k .chOut data).2.bump cfg .rxOk 1

/-- An accepted answer on port E comes from the append. -/
theorem exec_rxCapture_accepted {s t : State} {count : Half} {r : PortResult}
    (h : exec (.rxCapture count) s = .next t) (hres : t.resE = some r) (hrok : r.rok = true) :
    ∃ data, data = captureData (parseFields s.cfg s.cur (s.operandBytes (bodyLen s.cfg count))) ∧
      t.core = s.core.capture s.cfg data ∧
      r.rcount = rcountOf s.cur.ticket (writeChan s.cfg s.core .chOut data).1 := by
  cases exec_next h with
  | rxCaptureReject _ g hg =>
    rw [resE_finish (by simpa using port_of_gate_capture hg)] at hres
    cases hres
    cases hrok
  | rxCapture _ data hg _ _ hdata =>
    rw [resE_finish (by simpa using port_of_gate_capture hg)] at hres
    cases hres
    exact ⟨data, hdata, by simp [CoreState.capture], rfl⟩

section
variable (cfg : Config) (k : CoreState) (data : List Byte)

theorem capture_chIn : (k.capture cfg data).chIn = k.chIn := by
  rw [CoreState.capture, CoreState.bump_chIn]
  exact writeChan_chan_of_ne (a := .chIn) (by decide) cfg k data

theorem sameOffChannels_capture : SameOffChannels k (k.capture cfg data) := by
  simpa [SameOffChannels, CoreState.capture] using sameOffChannels_writeChan cfg k .chOut data

theorem sameCountersBut_capture : SameCountersBut [.rxOk, .ovfOut] k (k.capture cfg data) :=
  (sameCountersBut_writeChan (by simp [ovfOf]) cfg k data).trans (sameCountersBut_bump (by simp) _ _ _)

/-- The append and the count of the capture write different counters. -/
theorem grownBy_capture_rxOk : GrownBy cfg k (k.capture cfg data) .rxOk 1 := by
  have hkept : (writeChan cfg k .chOut data).2.cnt.get .rxOk = k.cnt.get .rxOk :=
    sameCountersBut_writeChan (List.mem_singleton_self (ovfOf .chOut)) cfg k data .rxOk (by simp [ovfOf])
  rw [GrownBy, ← hkept]
  exact grownBy_bump ..

theorem capture_ovfOut : (k.capture cfg data).cnt.get .ovfOut = (writeChan cfg k .chOut data).2.cnt.get .ovfOut := by
  rw [CoreState.capture, CoreState.bump_cnt, Counters.get_set_of_ne (by decide)]

end

theorem appended_capture {cfg : Config} {k : CoreState} (h : ChannelOk cfg k .chOut) (data : List Byte) :
    Appended cfg k (k.capture cfg data) .chOut (data.take (min data.length (free cfg k .chOut))) :=
  (appended_writeChan h data).bump _ _

/-! ### The statements -/

/-- Settles O32: the capture runs to its end either way, and the stages decide which. -/
theorem filterAcceptanceLaw : Obligations.FilterAcceptanceLaw := by
  intro s count h huse hs
  have hg := gate_capture h huse
  obtain ⟨hwf, -, -⟩ := h
  have hlaw := rejectedAt_eq_none_iff_bytes (k := s.core) (op := s.cur) hwf (operandBytes_length hs)
  cases hrej : rejectedAt s.cfg s.core s.cur count (s.operandBytes (bodyLen s.cfg count)) with
  | some g =>
    rw [hrej] at hlaw
    refine ⟨_, _, _, rfl, exec_of_ran (.rxCaptureReject count g hg hs hrej), returns_finish rfl rfl,
      ?_, by simp, by simp, by simp, iff_of_false nofun (fun hall => nomatch hlaw.2 hall), nofun,
      fun _ => ⟨rfl, by simp, ?_, ?_⟩⟩ <;> simp only [State.finish_core, State.setCore_core]
    · exact sameOffChannels_bump ..
    · exact grownBy_bump ..
    · exact sameCountersBut_bump (List.mem_singleton_self _) _ _ _
  | none =>
    refine ⟨_, _, _, rfl, exec_of_ran (.rxCapture count _ hg hs hrej rfl), returns_finish rfl rfl,
      ?_, ?_, by simp, by simp, iff_of_true rfl (hlaw.1 hrej), fun _ => ⟨?_, ?_⟩, nofun⟩ <;>
      simp only [State.finish_core, State.setCore_core]
    · exact sameOffChannels_capture ..
    · exact capture_chIn ..
    · exact grownBy_capture_rxOk ..
    · exact sameCountersBut_capture _ _ _

/-- Settles O33: the data is the prefix and the payload of the fields FRM.PARSE reads, and `writeChan` appends what
fits of it. -/
theorem acceptedCaptureIsAppended : Obligations.AcceptedCaptureIsAppended := by
  intro s t count r hok hexec hres hrok
  obtain ⟨data, hdata, hcore, hcount⟩ := exec_rxCapture_accepted hexec hres hrok
  obtain ⟨l, payload, hsplit, hl, hpayload, hbytes⟩ :=
    captureData_parseFields s.cfg s.cur (s.operandBytes (bodyLen s.cfg count))
  rw [hsplit] at hdata
  have hlen : data.length = 2 + l.toNat := by
    simp only [hdata, List.length_cons, hpayload]
    omega
  have hsmall : min data.length (free s.cfg s.core .chOut) < 2 ^ 32 := by
    have := l.isLt
    omega
  refine ⟨l, payload, data, _, hl, hpayload, hdata, hbytes, rfl, ?_⟩
  rw [← hlen, hcore, hcount, (writeChan_cases ..).1]
  refine ⟨rcountOf_toNat hsmall, appended_capture hok data, fun hk => ?_, fun hk => ?_⟩
  · have hover : free s.cfg s.core .chOut < data.length := by omega
    rw [Nat.min_eq_right hover.le, GrownBy, capture_ovfOut]
    exact grownBy_writeChan hover
  · rw [capture_ovfOut, writeChan_cnt_of_fits (by omega)]

end Sys2Proof.Machine
end

section
/-! What a whole tick does in each of its cases (43_reassembler.md R151, R152, R157). -/

namespace Sys2Proof.Machine

/-! ### Issuing a tick -/

theorem gate_tick {s : State} (h : Ready s .t) (huse : s.runUse.directIn = false) : gate s .tick = none := by
  obtain ⟨hwf, hinit, hport⟩ := h
  exact gate_eq_none.2 ⟨hwf, hinit, portRefusal_tick.2 ⟨hport, huse⟩⟩

theorem exec_raTick_waitHeader {s : State} (hg : gate s .tick = none) (hwhole : s.stepwise = false)
    (hrs : s.core.rsState = .waitHeader) : exec .raTick s = tickHeader (s.noteUse .tick) := by
  simp [exec, execRaTick, hg, hwhole, hrs]

theorem exec_raTick_accumulate {s : State} (hg : gate s .tick = none) (hwhole : s.stepwise = false)
    (hrs : s.core.rsState = .accumulate) : exec .raTick s = tickAccumulate (s.noteUse .tick) := by
  simp [exec, execRaTick, hg, hwhole, hrs]

theorem TickReady.gate {s : State} (h : TickReady s) : gate s .tick = none := by
  obtain ⟨hready, huse, -⟩ := h
  exact gate_tick hready huse

theorem TickReady.exec_waitHeader {s : State} (h : TickReady s) (hrs : s.core.rsState = .waitHeader) :
    exec .raTick s = tickHeader (s.noteUse .tick) := by
  have ⟨_, _, hwhole, _⟩ := h
  exact exec_raTick_waitHeader h.gate hwhole hrs

theorem TickReady.exec_accumulate {s : State} (h : TickReady s) (hrs : s.core.rsState = .accumulate) :
    exec .raTick s = tickAccumulate (s.noteUse .tick) := by
  have ⟨_, _, hwhole, _⟩ := h
  exact exec_raTick_accumulate h.gate hwhole hrs

theorem TickReady.channelOk {s : State} (h : TickReady s) : ChannelOk s.cfg s.core .chIn := by
  obtain ⟨-, -, -, ⟨hchan, -⟩, -⟩ := h
  exact hchan .chIn

theorem TickReady.lengthsOk {s : State} (h : TickReady s) : LengthsOk s.cfg s.core := by
  obtain ⟨-, -, -, ⟨-, -, -, hlen⟩, -⟩ := h
  exact hlen

theorem TickReady.partialOk {s : State} (h : TickReady s) (hrs : s.core.rsState = .accumulate) :
    PartialOk s.core := by
  obtain ⟨-, -, -, -, hb⟩ := h
  exact ⟨hrs, (hb hrs).2⟩

/-! ### The header read -/

theorem tickHeader_of_short {s : State} (h : occ s.cfg s.core .chIn < 2) : tickHeader s = .next (endTick s) :=
  if_pos h

theorem two_le_occ_of_take {cfg : Config} {k : CoreState} {ch : Chan} {b0 b1 : Byte}
    (h : (held cfg k ch).take 2 = [some b0, some b1]) : 2 ≤ occ cfg k ch := by
  have hlen := congrArg List.length h
  simp only [List.length_take, held_length, List.length_cons, List.length_nil] at hlen
  omega

/-- The header read takes its length from the two oldest bytes. -/
theorem headerLen_readCopy {cfg : Config} {k : CoreState} {b0 b1 : Byte} (hok : ChannelOk cfg k .chIn)
    (h : (held cfg k .chIn).take 2 = [some b0, some b1]) (ticket : Nat) :
    headerLen ticket (readCopy cfg ticket k .chIn 2) = be16 b0 b1 := by
  obtain ⟨-, -, -, -, hwritten⟩ := hok
  have hcopy := readCopy_eq_held ticket (two_le_occ_of_take h) hwritten
  have hdata : readCopy cfg ticket k .chIn 2 = [b0, b1] :=
    List.map_injective_iff.2 (Option.some_injective _) (hcopy.trans h)
  rw [hdata]
  rfl

/-- The header read with two bytes there: the discard of a bad length, or the payload read with the packet begun. -/
theorem tickHeader_of_two {s : State} {l : Half} (h : 2 ≤ occ s.cfg s.core .chIn)
    (hl : l = headerLen s.cur.ticket (readCopy s.cfg s.cur.ticket s.core .chIn 2)) :
    tickHeader s =
      if badHeader s.cfg l then .next (tickDiscard (s.setCore (readPublish s.cfg s.core .chIn 2)))
      else tickAccumulate (s.setCore ((readPublish s.cfg s.core .chIn 2).startPacket l)) := by
  simp only [tickHeader, if_neg (show ¬ occ s.cfg s.core .chIn < 2 by omega), readSnap_of_le h, hl]
  rfl

/-- A tick that finds the two bytes of a length. -/
theorem TickReady.exec_twoBytes {s : State} {b0 b1 : Byte} (h : TickReady s) (hrs : s.core.rsState = .waitHeader)
    (hbytes : (held s.cfg s.core .chIn).take 2 = [some b0, some b1]) :
    exec .raTick s =
      if badHeader s.cfg (be16 b0 b1) then
        .next (tickDiscard ((s.noteUse .tick).setCore (readPublish s.cfg s.core .chIn 2)))
      else
        tickAccumulate
          ((s.noteUse .tick).setCore ((readPublish s.cfg s.core .chIn 2).startPacket (be16 b0 b1))) :=
  (h.exec_waitHeader hrs).trans
    (tickHeader_of_two (s := s.noteUse .tick) (two_le_occ_of_take hbytes)
      (headerLen_readCopy h.channelOk hbytes _).symm)

theorem badHeader_be16_iff {cfg : Config} {b0 b1 : Byte} :
    badHeader cfg (be16 b0 b1) = true ↔
      256 * b0.toNat + b1.toNat = 0 ∨ cfg.maxPayload < 256 * b0.toNat + b1.toNat := by
  simp only [badHeader, badLength, toNat_be16, Bool.or_eq_true, decide_eq_true_eq]

/-! ### The payload read -/

/-- The state after the payload read of a tick of `n` bytes; `tickAccumulate_of_partial` ties it to the tick. -/
def State.receivePayload (s : State) (n : Nat) : State :=
  s.setCore (s.core.receive s.cfg n (readCopy s.cfg s.cur.ticket s.core .chIn n))

@[simp] theorem receivePayload_core (s : State) (n : Nat) :
    (s.receivePayload n).core = s.core.receive s.cfg n (readCopy s.cfg s.cur.ticket s.core .chIn n) := rfl

/-- The payload read of an incomplete packet stays inside `pkt_buf`. -/
theorem storePayload_of_wanted {s : State} {n : Nat} (data : List Byte) (hlen : LengthsOk s.cfg s.core)
    (hpart : PartialOk s.core) (hn : n ≤ s.core.wanted) :
    storePayload n data s = .ok (s.setCore (s.core.receive s.cfg n data)) := by
  obtain ⟨hexp, -⟩ := hlen
  obtain ⟨-, hrec⟩ := hpart
  simp only [CoreState.wanted] at hn
  rcases storePayload_cases n data s with ⟨-, hok⟩ | ⟨-, hover, -⟩
  · exact hok
  · omega

theorem tickAccumulate_of_partial {s : State} (hlen : LengthsOk s.cfg s.core) (hpart : PartialOk s.core) :
    ∃ n, n = min s.core.wanted (occ s.cfg s.core .chIn) ∧
      (s.receivePayload n).core.received.toNat = s.core.received.toNat + n ∧
      tickAccumulate s = .next
        (if (s.receivePayload n).core.received = (s.receivePayload n).core.expected then tickSend (s.receivePayload n)
         else endTick (s.receivePayload n)) := by
  have hwant : readSnap s.cfg s.core .chIn s.core.wanted ≤ s.core.wanted := Nat.min_le_left _ _
  refine ⟨_, rfl, receive_received_toNat hwant, ?_⟩
  simp only [tickAccumulate, storePayload_of_wanted _ hlen hpart hwant]
  rfl

/-- The payload read of a packet that stays incomplete ends the tick. -/
theorem tickAccumulate_of_short {s : State} (hlen : LengthsOk s.cfg s.core) (hpart : PartialOk s.core)
    (hshort : occ s.cfg s.core .chIn < s.core.wanted) :
    tickAccumulate s = .next (endTick (s.receivePayload (occ s.cfg s.core .chIn))) := by
  obtain ⟨n, hn, hrec, htick⟩ := tickAccumulate_of_partial hlen hpart
  rw [Nat.min_eq_right hshort.le] at hn
  subst hn
  rw [htick, if_neg fun heq => ?_]
  rw [heq, receivePayload_core, receive_expected] at hrec
  simp only [CoreState.wanted] at hshort
  omega

theorem received_add_wanted {k : CoreState} (h : PartialOk k) : k.received.toNat + k.wanted = k.expected.toNat := by
  obtain ⟨-, hlt⟩ := h
  rw [CoreState.wanted]
  omega

/-- The bytes wanted complete the packet. -/
theorem receive_wanted_received {k : CoreState} (h : PartialOk k) (cfg : Config) (data : List Byte) :
    (k.receive cfg k.wanted data).received = k.expected :=
  BitVec.eq_of_toNat_eq ((receive_received_toNat le_rfl).trans (received_add_wanted h))

/-- The payload read that completes the packet goes on to its TX.SEND. -/
theorem tickAccumulate_of_enough {s : State} (hlen : LengthsOk s.cfg s.core) (hpart : PartialOk s.core)
    (henough : s.core.wanted ≤ occ s.cfg s.core .chIn) :
    tickAccumulate s = .next (tickSend (s.receivePayload s.core.wanted)) := by
  obtain ⟨n, hn, -, htick⟩ := tickAccumulate_of_partial hlen hpart
  rw [Nat.min_eq_left henough] at hn
  subst hn
  exact htick.trans (congrArg _ (if_pos (receive_wanted_received hpart _ _)))

/-! ### What a payload read leaves -/

/-- What a channel has given up is a matter of the channels alone. -/
theorem Consumed.congr {cfg : Config} {k l m : CoreState} {ch : Chan} {n : Nat} (h : Consumed cfg k l ch n)
    (hm : ∀ c, m.chan c = l.chan c) : Consumed cfg k m ch n := by
  simpa only [Consumed, hm, held_congr (hm ch)] using h

theorem consumed_receive {cfg : Config} {k : CoreState} {n : Nat} (data : List Byte) (h : ChannelOk cfg k .chIn)
    (hn : n ≤ occ cfg k .chIn) : Consumed cfg k (k.receive cfg n data) .chIn n :=
  (consumed_readPublish h hn).congr (receive_chan _ _ _ _)

theorem read_receive_new {cfg : Config} {k : CoreState} {n i : Nat} {data : List Byte} (hdata : data.length = n)
    (hi : i < n) : Memory.read (k.receive cfg n data).pktBuf (k.received.toNat + i) = data[i]? := by
  rw [receive_pktBuf, List.take_of_length_le hdata.le, Memory.read_storeRun, if_pos (by omega),
    Nat.add_sub_cancel_left]

theorem read_receive_old {cfg : Config} {k : CoreState} {n a : Nat} {data : List Byte} (hdata : data.length = n)
    (ha : a < k.received.toNat ∨ k.received.toNat + n ≤ a) :
    Memory.read (k.receive cfg n data).pktBuf a = Memory.read k.pktBuf a := by
  rw [receive_pktBuf, List.take_of_length_le hdata.le, Memory.read_storeRun, if_neg (by omega)]

/-- The bytes copied out of a channel are, position by position, the bytes it holds. -/
theorem held_getElem?_of_copied {bs : List (Option Byte)} {data : List Byte} {n i : Nat}
    (h : data.map some = bs.take n) (hdata : data.length = n) (hi : i < n) : bs[i]? = some data[i]? := by
  have hget := congrArg (·[i]?) h
  simp only [List.getElem?_map, List.getElem?_take, if_pos hi] at hget
  rw [← hget, List.getElem?_eq_getElem (hdata.symm ▸ hi)]
  rfl

theorem readCopy_getElem?_eq_held {cfg : Config} {k : CoreState} {n i : Nat} (h : ChannelOk cfg k .chIn)
    (hn : n ≤ occ cfg k .chIn) (hi : i < n) (ticket : Nat) :
    (held cfg k .chIn)[i]? = some (readCopy cfg ticket k .chIn n)[i]? := by
  obtain ⟨-, -, -, -, hwritten⟩ := h
  exact held_getElem?_of_copied (readCopy_eq_held ticket hn hwritten) (by simp) hi

/-- A payload read of no byte changes nothing. -/
theorem receive_zero {cfg : Config} {k : CoreState} (h : ChannelOk cfg k .chIn) (data : List Byte) :
    k.receive cfg 0 data = k := by
  obtain ⟨-, htail, -⟩ := h
  have hpub : readPublish cfg k .chIn 0 = k := by
    simp only [readPublish, CoreState.setChan, Nat.add_zero, Nat.mod_eq_of_lt htail]
    rfl
  simp [CoreState.receive, hpub, Memory.storeRun]

/-! ### The statements -/

theorem OnTick.exists_tickAccumulate {s : State} (h : OnTick s) (hpart : PartialOk s.core) :
    ∃ t, tickAccumulate s = .next t := by
  obtain ⟨-, -, -, -, -, -, hlen⟩ := h
  obtain ⟨n, -, -, htick⟩ := tickAccumulate_of_partial hlen hpart
  exact ⟨_, htick⟩

/-- Of the three cases of the header read only the last goes on, to a payload read with the packet begun. -/
theorem OnTick.exists_tickHeader {s : State} (h : OnTick s) : ∃ t, tickHeader s = .next t := by
  rcases Nat.lt_or_ge (occ s.cfg s.core .chIn) 2 with hshort | htwo
  · exact ⟨_, tickHeader_of_short hshort⟩
  · rw [tickHeader_of_two htwo rfl]
    split
    next => exact ⟨_, rfl⟩
    next hl =>
      obtain ⟨hu, hpart⟩ := (h.readPublish htwo).startPacket (Bool.of_not_eq_true hl)
      exact hu.exists_tickAccumulate hpart

/-- Settles O35: under `P_PREEMPT` = 1 the first micro-step runs, otherwise the case of R151 that applies. -/
theorem raTickCompletes : Obligations.RaTickCompletes := by
  intro s h huse hok hb
  have hg := gate_tick h huse
  obtain ⟨hwf, hinit, hport⟩ := h
  have hon : OnTick (s.noteUse .tick) := ⟨hwf, hinit, hport, hok⟩
  cases hwhole : s.stepwise with
  | true => exact ⟨_, exec_of_ran (.raTickStart hg hwhole)⟩
  | false =>
    cases hrs : s.core.rsState with
    | waitHeader =>
      rw [exec_raTick_waitHeader hg hwhole hrs]
      exact hon.exists_tickHeader
    | accumulate =>
      rw [exec_raTick_accumulate hg hwhole hrs]
      exact hon.exists_tickAccumulate ⟨hrs, (hb hrs).2⟩

/-- Settles O36: the header read with fewer than two bytes ends the tick, and the payload read takes what is there,
which may be nothing. -/
theorem tickPersistence : Obligations.TickPersistence := by
  refine ⟨fun s h hrs hocc => ?_, fun s h hrs hocc => ?_, fun s k h hrs hk hpos hshort => ?_⟩
  · exact ⟨_, _, (h.exec_waitHeader hrs).trans (tickHeader_of_short hocc), by simp [endTick], by simp [endTick],
      by simp [endTick], returns_finish_zero rfl rfl⟩
  · have hpart := h.partialOk hrs
    have hlt : occ s.cfg s.core .chIn < s.core.wanted := by
      have := hpart.2
      rw [CoreState.wanted]
      omega
    have htick := tickAccumulate_of_short (s := s.noteUse .tick) h.lengthsOk hpart hlt
    refine ⟨_, _, (h.exec_accumulate hrs).trans htick, ?_, by simp [endTick, State.receivePayload],
      by simp [endTick, State.receivePayload], returns_finish_zero rfl rfl⟩
    simp [endTick, hocc, receive_zero h.channelOk]
  · subst hk
    have hwant : occ s.cfg s.core .chIn < s.core.wanted := hshort
    have htick := tickAccumulate_of_short (s := s.noteUse .tick) h.lengthsOk (h.partialOk hrs) hwant
    refine ⟨_, _, (h.exec_accumulate hrs).trans htick, ?_, ?_, fun i hi => ?_, fun a ha => ?_,
      by simp [endTick, hrs], by simp [endTick], by simp [endTick], by simp [endTick],
      by simp [endTick], by simp [endTick], by simp [endTick], by simp [endTick, State.receivePayload],
      by simp [endTick, State.receivePayload], returns_finish_zero rfl rfl⟩ <;>
      simp only [endTick, State.finish_core, receivePayload_core, State.noteUse_core, State.noteUse_cfg,
        State.noteUse_cur]
    · exact consumed_receive _ h.channelOk le_rfl
    · exact receive_received_toNat hwant.le
    · rw [read_receive_new (by simp) hi, readCopy_getElem?_eq_held h.channelOk le_rfl hi]
    · exact read_receive_old (by simp) ha

/-- Settles O37: the two bytes are read, the length they give is refused, and the discard counts it. -/
theorem malformedHeaderLaw : Obligations.MalformedHeaderLaw := by
  intro s b0 b1 h hrs hbytes hbad
  have htwo := two_le_occ_of_take hbytes
  refine ⟨_, _, (h.exec_twoBytes hrs hbytes).trans (if_pos (badHeader_be16_iff.2 hbad)), ?_, ?_, ?_, ?_,
    by simp [tickDiscard, endTick], by simp [tickDiscard, endTick], returns_finish_zero rfl rfl⟩ <;>
    simp only [tickDiscard, endTick, State.finish_core, State.setCore_core, State.setCore_cfg, State.noteUse_cfg]
  · exact (consumed_readPublish h.channelOk htwo).congr fun ch => CoreState.bump_chan ..
  · simpa [SameOffChannels] using readPublish_sameOffChannels s.cfg s.core .chIn 2
  · simp [GrownBy]
  · exact (sameCountersBut_of_cnt_eq (readPublish_cnt ..) _).trans
      (sameCountersBut_bump (List.mem_singleton_self _) _ _ _)

/-- Settles O38: both ticks are the payload read of the state with the packet begun. -/
theorem tickGoesOnAfterAHeader : Obligations.TickGoesOnAfterAHeader := by
  intro s b0 b1 h hrs hbytes hpos hmax
  have htwo := two_le_occ_of_take hbytes
  have hgood : ¬ badHeader s.cfg (be16 b0 b1) = true := fun hbad => by
    have := badHeader_be16_iff.1 hbad
    omega
  have ⟨_, _, hwhole, _⟩ := h
  have hbegun := exec_raTick_accumulate
    (s := s.setCore ((readPublish s.cfg s.core .chIn 2).startPacket (be16 b0 b1))) h.gate hwhole rfl
  refine ⟨_, ((h.exec_twoBytes hrs hbytes).trans (if_neg hgood)).trans hbegun.symm, ?_, by simp, by simp, ?_,
    by simp [readPublish], by simp, by simp [readPublish], by simp [readPublish], by simp [readPublish],
    by simp [readPublish]⟩
  · exact (consumed_readPublish h.channelOk htwo).congr fun ch => by simp
  · simpa using toNat_be16 b0 b1

end Sys2Proof.Machine
end

section
/-! The transmit contract (43_reassembler.md R153, R154): what TX.SEND leaves, issued or inside a tick, and who writes
the transmit-ready flag. -/

namespace Sys2Proof.Machine

/-! ### The atomic block and its count -/

theorem badLength_eq_true {cfg : Config} {n : Nat} : badLength cfg n = true ↔ n = 0 ∨ cfg.maxPayload < n := by
  simp only [badLength, Bool.or_eq_true, decide_eq_true_eq]

/-- The atomic block writes the number, the flag and the frame output alone. -/
theorem sendAttempt_frame (payload : List Byte) (s : State) :
    (sendAttempt payload s).2 =
      { s with
        core :=
          { s.core with
            seq := (sendAttempt payload s).2.core.seq
            txReady := (sendAttempt payload s).2.core.txReady }
        tx := (sendAttempt payload s).2.tx } := by
  rcases sendAttempt_cases payload s with ⟨-, h⟩ | ⟨-, -, hcore, -, hrest⟩
  · rw [h]
  · rw [hrest, hcore]
    rfl

theorem txLenOf_toNat {ticket v : Nat} (h : v < 2 ^ 16) : (txLenOf ticket v).toNat = v := by
  simp only [txLenOf, if_pos h, BitVec.toNat_ofNat]
  exact Nat.mod_eq_of_lt h

/-- From `u` the transmit contract starts where it starts from `s`. -/
structure SameSender (s u : State) : Prop where
  numbering : u.numbering = s.numbering
  flag : u.core.txReady = s.core.txReady
  counters : u.core.cnt = s.core.cnt
  command : u.cur = s.cur

theorem Transmits.congr {s u t : State} {payload : List Byte} {rok : Bool} (h : Transmits u t payload rok)
    (hs : SameSender s u) : Transmits s t payload rok := by
  obtain ⟨hcfg, hkey, haddr, hseq, htx⟩ := numbering_eq_iff.1 hs.numbering
  have hheader := buildHeader_congr hkey haddr s.cfg s.core.seq
  simpa only [Transmits, GrownBy, SameCountersBut, hheader, hcfg, hseq, htx, hs.flag, hs.counters, hs.command] using h

/-- The atomic block and the count after it keep the transmit contract, whatever ends the operation. -/
theorem transmits_sendAttempt {s t : State} {payload : List Byte} (htx : t.tx = (sendAttempt payload s).2.tx)
    (hseq : t.core.seq = (sendAttempt payload s).2.core.seq)
    (hflag : t.core.txReady = (sendAttempt payload s).2.core.txReady)
    (hcnt : t.core.cnt = (s.core.bump s.cfg (sendCounter (sendAttempt payload s).1) 1).cnt) :
    Transmits s t payload (decide ((sendAttempt payload s).1 = .ok)) := by
  have hgrown {c : Counter} (hc : sendCounter (sendAttempt payload s).1 = c) :
      GrownBy s.cfg s.core t.core c 1 ∧ SameCountersBut [c] s.core t.core := by
    subst hc
    refine ⟨?_, fun d hd => ?_⟩
    · rw [GrownBy, hcnt, CoreState.bump_cnt, Counters.get_set_self]
    · rw [hcnt]
      exact sameCountersBut_bump (List.mem_singleton_self _) _ _ _ d hd
  rcases sendAttempt_cases payload s with ⟨hbusy, h⟩ | ⟨hready, hres, hcore, hframe, -⟩
  · rw [h] at htx hseq hflag hgrown ⊢
    exact ⟨fun _ => ⟨htx, hseq, hflag.trans hbusy, rfl, hgrown rfl⟩, fun hr => absurd hr (by simp [hbusy])⟩
  · rw [hcore] at hseq hflag
    have hrok : decide ((sendAttempt payload s).1 = .ok) = enqAnswer s := by
      rw [hres]
      cases enqAnswer s <;> rfl
    rw [hrok]
    refine ⟨fun hb => absurd hb (by simp [hready]), fun _ => ⟨⟨_, htx.trans hframe, rfl, txLenOf_toNat⟩,
      fun e he => by simp [enqAnswer, he], ?_, ?_, fun he => hgrown ?_, fun he => hgrown ?_⟩⟩
    · rw [hseq]
      exact toNat_nextNumber s.core.seq
    · cases he : enqAnswer s <;> simp [hflag, he]
    · simp [hres, he, sendCounter]
    · simp [hres, he, sendCounter]

/-- TX.SEND as one step, past its length check. -/
theorem transmits_endSend (payload : List Byte) (s : State) :
    Transmits s (endSend (sendAttempt payload s).1 (sendAttempt payload s).2) payload
      (decide ((sendAttempt payload s).1 = .ok)) := by
  refine transmits_sendAttempt (by simp [endSend, sendCount]) (by simp [endSend, sendCount])
    (by simp [endSend, sendCount]) ?_
  rw [sendAttempt_frame]
  simp [endSend, sendCount]

theorem returns_endSend (s : State) (n : Nat) (payload : List Byte) :
    ∃ r, Returns s (endSend (sendAttempt payload (s.afterOperands n)).1 (sendAttempt payload (s.afterOperands n)).2) n
      r ∧ r.rok = decide ((sendAttempt payload (s.afterOperands n)).1 = .ok) := by
  rw [sendAttempt_frame]
  exact ⟨_, returns_finish rfl rfl, rfl⟩

/-! ### The TX.SEND of a tick -/

theorem tickSend_of_valid {s : State} (h : badLength s.cfg s.core.expected.toNat = false) :
    tickSend s = tickCount (sendAttempt (packet s.cur.ticket s.core) s).1
      (sendAttempt (packet s.cur.ticket s.core) s).2 := by
  simp [tickSend, h]

/-- The count of the TX.SEND of a tick ends the tick in WAIT_HEADER. -/
theorem tickCount_core (r : SendResult) (s : State) :
    (tickCount r s).core = (s.core.bump s.cfg (sendCounter r) 1).awaitHeader := by
  simp [tickCount, sendCount, endTick]

@[simp] theorem tickCount_tx (r : SendResult) (s : State) : (tickCount r s).tx = s.tx := by
  simp [tickCount, sendCount, endTick]

/-- Of the architectural state, what TX.SEND inside a tick leaves as it was, and where it leaves the reassembler. -/
structure TickSendKeeps (k l : CoreState) : Prop where
  chan : ∀ ch, l.chan ch = k.chan ch
  rsState : l.rsState = .waitHeader
  expected : l.expected = k.expected
  received : l.received = k.received
  pktBuf : l.pktBuf = k.pktBuf
  filterKey : l.filterKey = k.filterKey
  ownAddr : l.ownAddr = k.ownAddr

theorem tickSendKeeps {s : State} (h : badLength s.cfg s.core.expected.toNat = false) :
    TickSendKeeps s.core (tickSend s).core := by
  rw [tickSend_of_valid h, tickCount_core, sendAttempt_frame]
  exact ⟨fun ch => by cases ch <;> rfl, rfl, rfl, rfl, rfl, rfl, rfl⟩

theorem transmits_tickSend {s : State} (h : badLength s.cfg s.core.expected.toNat = false) :
    ∃ rok, Transmits s (tickSend s) (packet s.cur.ticket s.core) rok := by
  rw [tickSend_of_valid h]
  refine ⟨_, transmits_sendAttempt (tickCount_tx ..) ?_ ?_ ?_⟩ <;> rw [tickCount_core]
  · rfl
  · rfl
  · rw [sendAttempt_frame]
    rfl

/-- TX.SEND inside a tick ends it, leaving the environment and the uses of the run alone. -/
theorem returns_tickSend {s u : State} {k : CoreState} {use : RunUse}
    (h : badLength u.cfg u.core.expected.toNat = false) (hu : u = { s with core := k, runUse := use }) :
    (tickSend u).runUse = use ∧ ∃ r, Returns s (tickSend u) 0 r := by
  rw [tickSend_of_valid h, sendAttempt_frame, hu]
  exact ⟨by simp [tickCount, sendCount, endTick], _, returns_finish_zero rfl rfl⟩

/-- A packet whose bytes are written is those bytes, with no draw. -/
theorem packet_getElem? {k : CoreState} {i : Nat} (ticket : Nat) (hi : i < k.expected.toNat)
    (hw : (Memory.read k.pktBuf i).isSome = true) : (packet ticket k)[i]? = Memory.read k.pktBuf i := by
  obtain ⟨b, hb⟩ := Option.isSome_iff_exists.1 hw
  simp [packet, hi, hb]

@[simp] theorem packet_length (ticket : Nat) (k : CoreState) : (packet ticket k).length = k.expected.toNat := by
  simp [packet]

/-! ### The statements -/

/-- The payload read that completes a packet leaves its bytes, all written, in `pkt_buf`. -/
theorem packet_receive_wanted {cfg : Config} {k : CoreState} {data : List Byte} (hok : CoreOk cfg k)
    (hpart : PartialOk k) (henough : k.wanted ≤ occ cfg k .chIn) (hdata : data.length = k.wanted) (ticket : Nat)
    {i : Nat} (hi : i < k.expected.toNat) :
    (packet ticket (k.receive cfg k.wanted data))[i]? = Memory.read (k.receive cfg k.wanted data).pktBuf i := by
  obtain ⟨-, -, ⟨-, -, hwritten⟩, -⟩ := hok.receive henough le_rfl hpart hdata
  refine packet_getElem? ticket (by simpa using hi) (hwritten hpart.1 i ?_)
  rwa [receive_wanted_received hpart]

theorem sameSender_receivePayload (s : State) (a : Access) (n : Nat) :
    SameSender s ((s.noteUse a).receivePayload n) :=
  ⟨by simp [State.receivePayload, numbering_eq_iff], by simp, by simp, by simp [State.receivePayload]⟩

/-- Settles O39: the payload read completes `pkt_buf`, and TX.SEND of it ends the tick. -/
theorem tickCompletesThePacket : Obligations.TickCompletesThePacket := by
  intro s h hrs henough
  have hchan := h.channelOk
  have hpart := h.partialOk hrs
  have hlen := h.lengthsOk
  have ⟨_, _, _, hok, hb⟩ := h
  have htotal := received_add_wanted hpart
  change s.core.wanted ≤ _ at henough
  have htick := (h.exec_accumulate hrs).trans (tickAccumulate_of_enough (s := s.noteUse .tick) hlen hpart henough)
  have hsame := sameSender_receivePayload s .tick s.core.wanted
  obtain ⟨u, hu⟩ : ∃ u, u = (s.noteUse .tick).receivePayload s.core.wanted := ⟨_, rfl⟩
  simp only [State.noteUse_core, ← hu] at htick hsame
  have hcore : u.core = s.core.receive s.cfg s.core.wanted
      (readCopy s.cfg s.cur.ticket s.core .chIn s.core.wanted) := by simp [hu]
  have hpacket {i : Nat} (hi : i < s.core.expected.toNat) :
      (packet u.cur.ticket u.core)[i]? = Memory.read u.core.pktBuf i := by
    rw [hcore]
    exact packet_receive_wanted hok hpart henough (by simp) _ hi
  have hexp : u.core.expected = s.core.expected := by simp [hcore]
  have hvalid : badLength u.cfg u.core.expected.toNat = false := by
    obtain ⟨hcfg, -⟩ := numbering_eq_iff.1 hsame.numbering
    obtain ⟨hpos, -⟩ := hb hrs
    rw [hexp, hcfg]
    exact badLength_eq_false.2 ⟨hpos, hlen.1⟩
  have hkept := tickSendKeeps hvalid
  obtain ⟨rok, htransmits⟩ := transmits_tickSend hvalid
  obtain ⟨huse, r, hret⟩ := returns_tickSend (s := s) hvalid hu
  change ∃ t r payload rok, _ ∧ Consumed _ _ _ _ s.core.wanted ∧ _ ∧ _ ∧ (∀ i, i < s.core.wanted → _) ∧ _
  refine ⟨tickSend u, r, packet u.cur.ticket u.core, rok, htick, ?_, by simp [hexp], fun i hi => ?_,
    fun i hi => ?_, htransmits.congr hsame, hkept.rsState, hkept.expected.trans hexp, ?_, fun i hi => ?_,
    fun a ha => ?_, ?_, ?_, huse, hret⟩
  · exact (hcore ▸ consumed_receive _ hchan henough).congr hkept.chan
  · rw [hpacket (by omega), hcore, read_receive_old (by simp) (.inl hi)]
  · rw [hpacket (by omega), hcore, read_receive_new (by simp) hi, readCopy_getElem?_eq_held hchan henough hi]
  · rw [hkept.received, hcore, receive_wanted_received hpart]
  · rw [hkept.pktBuf, hpacket hi]
  · rw [hkept.pktBuf, hcore, read_receive_old (by simp) (.inr (by omega))]
  · rw [hkept.filterKey, hcore, receive_filterKey]
  · rw [hkept.ownAddr, hcore, receive_ownAddr]

/-- Settles O40: a bad length is counted alone; else the atomic block and the count after it. -/
theorem txSendContract : Obligations.TxSendContract := by
  intro s len h hwhole hs
  have hg := gate_tickPort h
  cases hbad : badLength s.cfg len.toNat with
  | true =>
    refine ⟨_, _, exec_of_ran (.txSendBad len hg hs hbad), returns_finish rfl rfl, by simp, by simp [CoreState.bump],
      fun _ => ⟨rfl, by simp, by simp, by simp, ?_, ?_⟩, fun hpos hmax => ?_⟩
    · simpa using grownBy_bump s.cfg s.core .txErr 1
    · simpa using sameCountersBut_bump (List.mem_singleton_self _) s.cfg s.core 1
    · have := badLength_eq_true.1 hbad
      omega
  | false =>
    have hsame : SameSender s (s.afterOperands len.toNat) := ⟨by simp, by simp, by simp, by simp⟩
    obtain ⟨hpos, hmax⟩ := badLength_eq_false.1 hbad
    obtain ⟨r, hret, hrok⟩ := returns_endSend s len.toNat (s.operandBytes len.toNat)
    refine ⟨_, r, exec_of_ran (.txSend len _ hg hs hbad hwhole rfl), hret, ?_, ?_,
      fun hlen => absurd hlen (by omega), fun _ _ => hrok ▸ (transmits_endSend ..).congr hsame⟩
    · rw [sendAttempt_frame]
      simp [endSend, sendCount]
    · rw [sendAttempt_frame]
      simp [endSend, sendCount, CoreState.bump]

/-! ### The transmit-ready flag (R154) -/

/-- No operation but TX.DONE and SYS.INIT sets the flag: port E leaves it alone, port T only clears it. -/
theorem Ran.flag_stays_clear {i : Instr} {s t : State} (h : Ran s i t) (hdone : i ≠ .txDone) (hsys : i ≠ .sysInit)
    (hs : s.core.txReady = false) : t.core.txReady = false := by
  cases hp : s.cur.port with
  | e =>
    rcases (h.eventKeeps hp).flag with hsame | ⟨-, rfl⟩
    · exact hsame.trans hs
    · exact absurd rfl hdone
  | t =>
    by_cases hother : (∃ ch, i = .chInit ch) ∨ i = .cntReset
    · obtain ⟨ch, rfl⟩ | rfl := hother <;> cases h <;> simpa using hs
    · obtain ⟨hch, hcnt⟩ := not_or.1 hother
      exact (h.tickKeeps hp hsys (not_exists.1 hch) hcnt).flag hs

theorem gate_eventPort {s : State} (h : Ready s .e) : gate s .eventPort = none := by
  obtain ⟨hwf, hinit, hport⟩ := h
  exact gate_eq_none.2 ⟨hwf, hinit, portRefusal_eventPort.2 hport⟩

theorem gate_eventPort_of_tick {s : State} (h : Ready s .t) : gate s .eventPort = some (.wrongPort .t) := by
  obtain ⟨hwf, hinit, hport⟩ := h
  simp [gate, portRefusal, hwf, hinit, hport]

/-- Settles O41: TX.DONE is the one writer of the flag on port E, and what port T does only clears it. -/
theorem txDoneSetsTheFlag : Obligations.TxDoneSetsTheFlag := by
  refine ⟨fun s h => ?_, fun s h => exec_of_gate (gate_eventPort_of_tick h),
    fun s t i h hdone hsys => (exec_next h).flag_stays_clear hdone hsys, fun s t m h => (microStep_tickKeeps h).flag⟩
  exact ⟨_, _, exec_of_ran (.txDone (gate_eventPort h)), by simp, by simp, by simp, by simp,
    returns_finish_zero rfl rfl⟩

end Sys2Proof.Machine
end

section
/-! One outstanding transmission (43_reassembler.md R155): a frame is presented only where the flag is set, and an
accepted one clears it in the same step. -/

namespace Sys2Proof.Machine

/-! ### The flag, the frame output and the answer -/

/-- What a transmission rests on and what it writes, the sequence number apart. -/
structure Outgoing where
  flag : Bool
  tx : Option TxFrame
  cur : Presented

/-- The part of a state that the transmission law speaks of; `outgoing_eq_iff` ties it to the state's fields. -/
def State.outgoing (s : State) : Outgoing := ⟨s.core.txReady, s.tx, s.cur⟩

theorem outgoing_eq_iff {s t : State} :
    t.outgoing = s.outgoing ↔ t.core.txReady = s.core.txReady ∧ t.tx = s.tx ∧ t.cur = s.cur := by
  simp only [State.outgoing, Outgoing.mk.injEq]

/-- From `s` to `t` a frame came out only where the flag was set, and the flag is clear after an accepted one. -/
def SendsUnderFlag (s t : State) : Prop :=
  t.cur = s.cur ∧
    (t.tx = s.tx ∨ (s.core.txReady = true ∧ (enqAnswer s = true → t.core.txReady = false)))

theorem sendsUnderFlag_of_tx {s t : State} (hcur : t.cur = s.cur := by simp) (htx : t.tx = s.tx := by simp) :
    SendsUnderFlag s t := ⟨hcur, .inl htx⟩

theorem enqAnswer_congr {s t : State} (h : t.cur = s.cur) : enqAnswer t = enqAnswer s := by
  simp only [enqAnswer, h]

theorem SendsUnderFlag.congr {s s' t t' : State} (h : SendsUnderFlag s t) (hs : s.outgoing = s'.outgoing)
    (ht : t'.outgoing = t.outgoing) : SendsUnderFlag s' t' := by
  obtain ⟨hflag, htx, hcur⟩ := outgoing_eq_iff.1 hs
  obtain ⟨hflag', htx', hcur'⟩ := outgoing_eq_iff.1 ht
  obtain ⟨hkept, hsend⟩ := h
  refine ⟨hcur'.trans (hkept.trans hcur), ?_⟩
  rwa [htx', ← htx, ← hflag, hflag', ← enqAnswer_congr hcur]

@[simp] theorem outgoing_finish (s : State) (r : PortResult) : (s.finish r).outgoing = s.outgoing := by
  simp [outgoing_eq_iff]

@[simp] theorem outgoing_pause (s : State) (m : Micro) : (s.pause m).outgoing = s.outgoing := rfl

@[simp] theorem outgoing_endTick (s : State) : (endTick s).outgoing = s.outgoing := outgoing_finish ..

@[simp] theorem outgoing_tickCount (r : SendResult) (s : State) : (tickCount r s).outgoing = s.outgoing := by
  simp [tickCount, sendCount, outgoing_eq_iff]

@[simp] theorem outgoing_tickBadSend (s : State) : (tickBadSend s).outgoing = s.outgoing := by
  simp [tickBadSend, outgoing_eq_iff]

@[simp] theorem outgoing_endSend (r : SendResult) (s : State) : (endSend r s).outgoing = s.outgoing := by
  simp [endSend, sendCount, outgoing_eq_iff]

@[simp] theorem outgoing_setPortIn (s : State) (p : Port) (q : PortIn) :
    (s.setPortIn p q).outgoing = s.outgoing := by simp [outgoing_eq_iff]

theorem sendsUnderFlag_endTick (s : State) : SendsUnderFlag s (endTick s) :=
  .congr sendsUnderFlag_of_tx rfl (outgoing_endTick s)

/-- The atomic block tests the flag, and clears it where the transport accepts. -/
theorem sendsUnderFlag_sendAttempt (payload : List Byte) (s : State) :
    SendsUnderFlag s (sendAttempt payload s).2 := by
  rcases sendAttempt_cases payload s with ⟨-, h⟩ | ⟨hready, -, hcore, -, hrest⟩
  · rw [h]
    exact sendsUnderFlag_of_tx
  · exact ⟨by rw [hrest], .inr ⟨hready, fun he => by simp [hcore, he]⟩⟩

theorem sendsUnderFlag_tickSend (s : State) : SendsUnderFlag s (tickSend s) := by
  unfold tickSend
  split
  · exact .congr sendsUnderFlag_of_tx rfl (outgoing_tickBadSend s)
  · exact (sendsUnderFlag_sendAttempt _ s).congr rfl (outgoing_tickCount ..)

theorem sendsUnderFlag_tickAttempt (s : State) : SendsUnderFlag s (tickAttempt s) := by
  unfold tickAttempt
  split
  · exact .congr sendsUnderFlag_of_tx rfl (outgoing_tickBadSend s)
  · exact (sendsUnderFlag_sendAttempt _ s).congr rfl (outgoing_pause ..)

theorem sendsUnderFlag_tickAccumulate {s t : State} (h : tickAccumulate s = .next t) : SendsUnderFlag s t := by
  obtain ⟨n, data, _, -, -, rfl, ⟨-, rfl⟩ | ⟨-, rfl⟩⟩ := tickAccumulate_next h
  · exact (sendsUnderFlag_tickSend _).congr (by simp [outgoing_eq_iff]) rfl
  · exact (sendsUnderFlag_endTick _).congr (by simp [outgoing_eq_iff]) rfl

theorem sendsUnderFlag_tickHeader {s t : State} (h : tickHeader s = .next t) : SendsUnderFlag s t := by
  obtain rfl | ⟨-, rfl⟩ | ⟨l, -, -, hpayload⟩ := tickHeader_next h
  · exact sendsUnderFlag_endTick s
  · exact sendsUnderFlag_of_tx (by simp [tickDiscard, endTick]) (by simp [tickDiscard, endTick])
  · exact (sendsUnderFlag_tickAccumulate hpayload).congr (by simp [outgoing_eq_iff, readPublish]) rfl

/-- Of the micro-steps only the atomic block of a tick presents a frame. -/
theorem sendsUnderFlag_microStep {m : Micro} {s t : State} (h : microStep m s = .next t) : SendsUnderFlag s t := by
  cases hwf : s.cfg.wf with
  | false => rw [microStep_of_broken hwf] at h; cases h
  | true =>
    simp only [microStep, hwf, Bool.true_eq_false, if_false] at h
    cases m
    case tickSend => cases h; exact sendsUnderFlag_tickAttempt s
    case tickHeaderPublish n data =>
      cases h
      unfold tickTakeHeader
      simp only
      split <;> exact sendsUnderFlag_of_tx
    case tickPayloadPublish n data =>
      obtain ⟨_, rfl, ⟨-, rfl⟩ | ⟨-, rfl⟩⟩ := tickTakePayload_next h
      · exact sendsUnderFlag_of_tx
      · exact (sendsUnderFlag_endTick _).congr (by simp [outgoing_eq_iff]) rfl
    all_goals
      cases h
      exact sendsUnderFlag_of_tx (by simp [endRead, endGetb, endSend, tickDiscard, tickCount, sendCount, endTick])
        (by simp [endRead, endGetb, endSend, tickDiscard, tickCount, sendCount, endTick])

/-- Of the operations only TX.SEND and the tick present a frame. -/
theorem Ran.sendsUnderFlag {i : Instr} {s t : State} (h : Ran s i t) : SendsUnderFlag s t := by
  cases h with
  | raTickStart =>
    unfold tickFirst
    split
    · split
      · exact sendsUnderFlag_endTick _
      · exact sendsUnderFlag_of_tx
    · exact sendsUnderFlag_of_tx
  | raTickHeader _ _ _ h => exact (sendsUnderFlag_tickHeader h).congr rfl rfl
  | raTickPayload _ _ _ h => exact (sendsUnderFlag_tickAccumulate h).congr rfl rfl
  | txSendStart _ _ _ _ _ _ ha =>
    subst ha
    exact (sendsUnderFlag_sendAttempt _ _).congr (outgoing_setPortIn ..) (outgoing_pause ..)
  | txSend _ _ _ _ _ _ ha =>
    subst ha
    exact (sendsUnderFlag_sendAttempt _ _).congr (outgoing_setPortIn ..) (outgoing_endSend ..)
  | chRead | chGetb => exact sendsUnderFlag_of_tx (by simp [endRead, endGetb]) (by simp [endRead, endGetb])
  | _ => exact sendsUnderFlag_of_tx

/-! ### Steps -/

/-- In every step but TX.DONE and SYS.INIT the flag, once clear, stays clear and keeps any frame back, and the step
that presents an accepted frame leaves it clear. -/
theorem step_flag {s t : State} (h : step s = .next t) (hdone : ¬ Issues s .txDone) (hsys : ¬ Issues s .sysInit) :
    (s.core.txReady = false → t.core.txReady = false ∧ t.tx = none) ∧
      (t.tx.isSome = true → enqAnswer t = true → t.core.txReady = false) := by
  suffices hpiece : ∃ u, u.core = s.core ∧ u.tx = none ∧ SendsUnderFlag u t ∧
      (u.core.txReady = false → t.core.txReady = false) by
    obtain ⟨u, hcore, htx, ⟨hcur, hsend⟩, hclear⟩ := hpiece
    rw [hcore] at hsend hclear
    refine ⟨fun hs => ⟨hclear hs, ?_⟩, fun hframe he => ?_⟩
    · rcases hsend with hsame | ⟨hready, -⟩
      · exact hsame.trans htx
      · exact absurd hready (by simp [hs])
    · rcases hsend with hsame | ⟨-, haccepted⟩
      · rw [hsame, htx] at hframe; cases hframe
      · exact haccepted (enqAnswer_congr hcur ▸ he)
  cases step_next h with
  | idle hs =>
    obtain ⟨hcore, -, -, -, -, htx⟩ := hs
    exact ⟨t, hcore, htx, sendsUnderFlag_of_tx rfl rfl, id⟩
  | resume q u _ _ hs _ _ hmicro =>
    obtain ⟨hcore, -, -, -, -, htx⟩ := hs
    exact ⟨u, hcore, htx, sendsUnderFlag_microStep hmicro, (microStep_tickKeeps hmicro).flag⟩
  | issue p c cs i u _ _ _ hs _ _ hiss hran =>
    obtain ⟨hcore, -, -, -, -, htx⟩ := hs
    exact ⟨u, hcore, htx, hran.sendsUnderFlag,
      hran.flag_stays_clear (fun e => hdone ((hiss _).2 e.symm)) (fun e => hsys ((hiss _).2 e.symm))⟩

/-! ### The law -/

/-- At most one transmission is outstanding, and while one is, the flag is clear. -/
theorem Outstanding.bound {s : State} {n : Nat} (h : Outstanding s n) : n ≤ 1 ∧ (n = 1 → s.core.txReady = false) := by
  induction h with
  | start => simp
  | @enqueue s t n _ hstep hdone hsys hframe he ih =>
    obtain ⟨hclear, haccepted⟩ := step_flag hstep hdone hsys
    obtain ⟨hle, hbusy⟩ := ih
    have hnone : n ≠ 1 := fun hn => by
      rw [(hclear (hbusy hn)).2] at hframe; cases hframe
    exact ⟨by omega, fun _ => haccepted hframe he⟩
  | complete _ _ _ ih =>
    obtain ⟨hle, -⟩ := ih
    exact ⟨by omega, by omega⟩
  | other _ hstep hdone hsys _ ih =>
    obtain ⟨hle, hbusy⟩ := ih
    exact ⟨hle, fun hn => ((step_flag hstep hdone hsys).1 (hbusy hn)).1⟩

/-- Settles O42: the bound by induction on the run, the busy tick by the busy branch of the transmit contract. -/
theorem oneOutstandingTransmission : Obligations.OneOutstandingTransmission := by
  refine ⟨fun s n h => h.bound, fun s h hrs henough hbusy => ?_⟩
  obtain ⟨t, r, payload, rok, hexec, -, -, -, -, ⟨htransmits, -⟩, hwait, -⟩ :=
    tickCompletesThePacket s h hrs henough
  obtain ⟨htx, hseq, hflag, -, hgrown, hsame⟩ := htransmits hbusy
  exact ⟨t, hexec, htx, hwait, hflag, hseq, hgrown, hsame⟩

end Sys2Proof.Machine
end

section
/-! The end-to-end law (43_reassembler.md R156): what the serial-inbound side of a CORE holds while one packet is fed
into it, and that every write, tick and micro-step keeps it. -/

namespace Sys2Proof.Machine

/-! ### The packet and what is left of it in CH_IN -/

/-- A payload of valid length with its length (30_encoding.md R70). -/
structure IsPacket (cfg : Config) (l : Half) (payload : List Byte) : Prop where
  wf : cfg.wf = true
  length : l.toNat = payload.length
  pos : 1 ≤ payload.length
  le : payload.length ≤ cfg.maxPayload

/-- The bytes of a packet as they are written into CH_IN. -/
def packetBytes (l : Half) (payload : List Byte) : List Byte := [hi8 l, lo8 l] ++ payload

theorem packetBytes_getElem?_add_two (l : Half) (payload : List Byte) (i : Nat) :
    (packetBytes l payload)[2 + i]? = payload[i]? := by
  rw [packetBytes, List.getElem?_append_right (by simp)]
  simp

theorem packetBytes_length (l : Half) (payload : List Byte) :
    (packetBytes l payload).length = 2 + payload.length := by
  simp only [packetBytes, List.length_append, List.length_cons, List.length_nil]

theorem IsPacket.badLength {cfg : Config} {l : Half} {payload : List Byte} (h : IsPacket cfg l payload) :
    badLength cfg payload.length = false := badLength_eq_false.2 ⟨h.pos, h.le⟩

/-- The architectural state `k` of the CORE of `s`, of whose CH_IN `n` of the bytes `a` written have been consumed; a
header is built from what it was built from in `s`. -/
structure Fed (s : State) (a : List Byte) (n : Nat) (k : CoreState) : Prop where
  channel : ChannelOk s.cfg k .chIn
  queue : held s.cfg k .chIn = (a.drop n).map some
  taken : n ≤ a.length
  filterKey : k.filterKey = s.core.filterKey
  ownAddr : k.ownAddr = s.core.ownAddr

section
variable {s : State} {a : List Byte} {n : Nat} {k l : CoreState}

theorem Fed.occ_eq (h : Fed s a n k) : occ s.cfg k .chIn = a.length - n := by
  rw [← held_length, h.queue, List.length_map, List.length_drop]

/-- What leaves CH_IN and the identity of the CORE alone. -/
theorem Fed.congr (h : Fed s a n k) (hchan : l.chan .chIn = k.chan .chIn) (hkey : l.filterKey = k.filterKey)
    (haddr : l.ownAddr = k.ownAddr) : Fed s a n l :=
  ⟨h.channel.congr hchan, (held_congr hchan _).trans h.queue, h.taken, hkey.trans h.filterKey,
    haddr.trans h.ownAddr⟩

theorem Fed.consume (h : Fed s a n k) {m : Nat} (hm : m ≤ occ s.cfg k .chIn)
    (hcons : Consumed s.cfg k l .chIn m) (hkey : l.filterKey = k.filterKey) (haddr : l.ownAddr = k.ownAddr) :
    Fed s a (n + m) l := by
  have hok := hcons.channelOk h.channel hm
  obtain ⟨-, hheld, -⟩ := hcons
  rw [h.occ_eq] at hm
  have := h.taken
  refine ⟨hok, ?_, by omega, hkey.trans h.filterKey, haddr.trans h.ownAddr⟩
  rw [hheld, h.queue, ← List.map_drop, List.drop_drop]

/-- Bytes copied out of CH_IN are the next ones written. -/
theorem Fed.getElem?_copied (h : Fed s a n k) {m i : Nat} {data : List Byte}
    (hdata : data.map some = (held s.cfg k .chIn).take m) (hi : i < m) : data[i]? = a[n + i]? := by
  rw [h.queue, ← List.map_take] at hdata
  rw [List.map_injective_iff.2 (Option.some_injective _) hdata, List.getElem?_take_of_lt hi, List.getElem?_drop]

/-- Consuming moves `tail`: with `head` and the bytes in place, the channel would hold the same otherwise. -/
theorem Fed.tail_ne (hk : Fed s a n k) {m : Nat} (hl : Fed s a m l) (hlt : n < m)
    (hside : (l.chan .chIn).head = (k.chan .chIn).head ∧ (l.chan .chIn).buf = (k.chan .chIn).buf) :
    l.chIn.tail ≠ k.chIn.tail := by
  intro htail
  obtain ⟨hhead, hbuf⟩ := hside
  have hchan : l.chan .chIn = k.chan .chIn :=
    calc l.chan .chIn
      _ = ⟨(l.chan .chIn).buf, (l.chan .chIn).head, l.chIn.tail⟩ := rfl
      _ = k.chan .chIn := by rw [hbuf, hhead, htail]; rfl
  have hocc := occ_congr hchan s.cfg
  rw [hk.occ_eq, hl.occ_eq] at hocc
  have := hl.taken
  omega

end

/-! ### Where the packet stands -/

/-- The reassembler collects the packet: the bytes received so far stand in `pkt_buf`, and no build call has been
made. -/
structure Collects (s : State) (payload : List Byte) (k : CoreState) : Prop where
  rsState : k.rsState = .accumulate
  expected : k.expected.toNat = payload.length
  written : ∀ i, i < k.received.toNat → Memory.read k.pktBuf i = payload[i]?
  seq : k.seq = s.core.seq

/-- What the end-to-end law asks of the frames presented. -/
def Presents (ready : Bool) (s : State) (payload : List Byte) (fs : List TxFrame) : Prop :=
  (ready = true → ∃ f, fs = [f] ∧ f.frame = buildHeader s.cfg s.core s.core.seq ++ payload ∧
    (24 + payload.length < 65536 → f.len.toNat = 24 + payload.length)) ∧
  (ready = false → fs = [])

/-- The micro-step belongs to the header read of a tick, and what it has taken stands in CH_IN (R211, R212). -/
def Micro.ReadsHeader (cfg : Config) (k : CoreState) : Micro → Prop
  | .tickHeaderSnap => 2 ≤ occ cfg k .chIn
  | .tickHeaderCopy n => n = 2 ∧ 2 ≤ occ cfg k .chIn
  | .tickHeaderPublish n data => n = 2 ∧ 2 ≤ occ cfg k .chIn ∧ data.map some = (held cfg k .chIn).take 2
  | _ => False

/-- The micro-step belongs to the payload read of a tick, and what it has taken stands in CH_IN (R211, R212). -/
def Micro.ReadsPayload (cfg : Config) (k : CoreState) : Micro → Prop
  | .tickPayloadSnap => True
  | .tickPayloadCopy n => n ≤ occ cfg k .chIn ∧ n ≤ k.wanted
  | .tickPayloadPublish n data =>
    n ≤ occ cfg k .chIn ∧ n ≤ k.wanted ∧ data.map some = (held cfg k .chIn).take n
  | _ => False

/-- Where the packet stands, given the micro-step `p` of a tick in progress, if there is one: `n` of its bytes have
been consumed and the frames of `fs` presented. -/
inductive FeedPhase (ready : Bool) (s : State) (payload : List Byte) :
    CoreState → Option Micro → Nat → List TxFrame → Prop where
  | header {k : CoreState} {p : Option Micro} : k.rsState = .waitHeader → k.seq = s.core.seq →
      (∀ m, p = some m → m.ReadsHeader s.cfg k) → FeedPhase ready s payload k p 0 []
  | payload {k : CoreState} {p : Option Micro} : Collects s payload k → PartialOk k →
      (∀ m, p = some m → m.ReadsPayload s.cfg k) → FeedPhase ready s payload k p (2 + k.received.toNat) []
  | send {k : CoreState} : Collects s payload k → k.received = k.expected →
      FeedPhase ready s payload k (some .tickSend) (2 + payload.length) []
  | count {k : CoreState} {r : SendResult} {fs : List TxFrame} : Presents ready s payload fs →
      FeedPhase ready s payload k (some (.tickCount r)) (2 + payload.length) fs
  | done {k : CoreState} {fs : List TxFrame} : k.rsState = .waitHeader → Presents ready s payload fs →
      FeedPhase ready s payload k none (2 + payload.length) fs

/-- The invariant of a feed: the bytes `a` are written, the frames `fs` presented, and a tick in progress is on
port T. -/
structure FeedState (ready : Bool) (s : State) (payload a : List Byte) (fs : List TxFrame) (t : State) : Prop where
  cfg : t.cfg = s.cfg
  port : ∀ q, t.tickPending = some q → q.op.port = .t
  stands : ∃ n, Fed s a n t.core ∧ FeedPhase ready s payload t.core (t.tickPending.map (·.next)) n fs

/-! ### Bytes written, and whatever happens outside the serial-inbound side -/

/-- From `u` to `v` the bytes of `xs` came into CH_IN, and nothing else of the serial-inbound side differs. -/
structure GrowsInward (u v : State) (xs : List Byte) : Prop where
  cfg : v.cfg = u.cfg
  pending : v.tickPending = u.tickPending
  channel : ChannelOk u.cfg u.core .chIn → ChannelOk u.cfg v.core .chIn
  queue : held u.cfg v.core .chIn = held u.cfg u.core .chIn ++ xs.map some
  reassembler : SameReassembler u.core v.core
  pktBuf : v.core.pktBuf = u.core.pktBuf
  seq : v.core.seq = u.core.seq
  filterKey : v.core.filterKey = u.core.filterKey
  ownAddr : v.core.ownAddr = u.core.ownAddr

theorem growsInward_of_sameInward {u v : State} (h : SameInward u v) : GrowsInward u v [] := by
  obtain ⟨hcfg, hpend, hchan, hrs, hexp, hrec, hpkt, hseq, hkey, haddr⟩ := h
  exact ⟨hcfg, hpend, fun hok => hok.congr hchan, by simpa using held_congr (ch := .chIn) hchan _,
    ⟨hrs, hexp, hrec⟩, hpkt, hseq, hkey, haddr⟩

/-- An operation that ends on port E leaves the tick in progress. -/
theorem Returns.tickPending_of_event {s t : State} {n : Nat} {r : PortResult} (h : Returns s t n r)
    (hp : s.cur.port = .e) : t.tickPending = s.tickPending := by
  obtain ⟨-, -, -, -, -, hprog, -⟩ := h
  simp [State.tickPending, hprog, hp]

/-- A write accepted whole. -/
theorem growsInward_chWrite {s t : State} {len : Half} {r : PortResult} (hok : ChannelOk s.cfg s.core .chIn)
    (hexec : exec (.chWrite .chIn len) s = .next t) (hr : t.result s.cur.port = some r)
    (hall : r.rcount.toNat = len.toNat) : GrowsInward s t (s.operandBytes len.toNat) := by
  obtain ⟨hmay, hs⟩ : MayProduce s .chIn ∧ Supplied s len.toNat := by
    cases exec_next hexec with
    | chWrite _ _ hg hs => exact ⟨mayProduce_of_gate hg, hs⟩
  obtain ⟨u, q, k, hu, -, ⟨hheld, -⟩, -, -, -, hoff, -, -, hret, hcount⟩ :=
    chWriteAcceptsWhatFits.1 s .chIn len hmay hs hok
  obtain rfl := next_unique hexec hu
  obtain rfl := hret.result_eq hr
  obtain rfl : k = len.toNat := hcount.symm.trans hall
  have hokt := channelOk_of_chWrite hok hexec
  have hre := hoff.sameReassembler
  obtain ⟨hseq, -, -, -, -, hpkt, hkey, haddr⟩ := hoff
  rw [hret.cfg] at hokt
  rw [List.take_of_length_le (operandBytes_length hs).le] at hheld
  exact ⟨hret.cfg, hret.tickPending_of_event hmay.port, fun _ => hokt, hheld, hre, hpkt, hseq, hkey, haddr⟩

theorem occ_le_of_held_append {cfg : Config} {k l : CoreState} {ch : Chan} {xs : List (Option Byte)}
    (hl : held cfg l ch = held cfg k ch ++ xs) : occ cfg k ch ≤ occ cfg l ch := by
  rw [← held_length cfg l, hl, List.length_append, held_length]
  exact Nat.le_add_right _ _

theorem take_held_append {cfg : Config} {k l : CoreState} {ch : Chan} {xs : List (Option Byte)} {n : Nat}
    (hn : n ≤ occ cfg k ch) (hl : held cfg l ch = held cfg k ch ++ xs) :
    (held cfg l ch).take n = (held cfg k ch).take n := by
  rw [hl, List.take_append_of_le_length (by rwa [held_length])]

/-- Bytes written behind those held leave the header read in progress covered. -/
theorem Micro.ReadsHeader.append {cfg : Config} {k l : CoreState} {m : Micro} {xs : List (Option Byte)}
    (h : m.ReadsHeader cfg k) (hl : held cfg l .chIn = held cfg k .chIn ++ xs) : m.ReadsHeader cfg l := by
  have hocc := occ_le_of_held_append hl
  cases m with
  | tickHeaderSnap => exact Nat.le_trans h hocc
  | tickHeaderCopy n => exact ⟨h.1, h.2.trans hocc⟩
  | tickHeaderPublish n data =>
    obtain ⟨hn, htwo, hdata⟩ := h
    exact ⟨hn, htwo.trans hocc, hdata.trans (take_held_append htwo hl).symm⟩
  | _ => exact h

theorem Micro.ReadsPayload.append {cfg : Config} {k l : CoreState} {m : Micro} {xs : List (Option Byte)}
    (h : m.ReadsPayload cfg k) (hl : held cfg l .chIn = held cfg k .chIn ++ xs) (hwant : l.wanted = k.wanted) :
    m.ReadsPayload cfg l := by
  have hocc := occ_le_of_held_append hl
  cases m with
  | tickPayloadCopy n => exact ⟨h.1.trans hocc, h.2.trans_eq hwant.symm⟩
  | tickPayloadPublish n data =>
    obtain ⟨hn, hle, hdata⟩ := h
    exact ⟨hn.trans hocc, hle.trans_eq hwant.symm, hdata.trans (take_held_append hn hl).symm⟩
  | _ => exact h

theorem Collects.congr {s : State} {payload : List Byte} {k l : CoreState} (h : Collects s payload k)
    (hre : SameReassembler k l) (hpkt : l.pktBuf = k.pktBuf) (hseq : l.seq = k.seq) : Collects s payload l := by
  obtain ⟨hrs, hexp, hrec⟩ := hre
  exact ⟨hrs.trans h.rsState, by rw [hexp, h.expected], by rw [hrec, hpkt]; exact h.written, hseq.trans h.seq⟩

theorem FeedPhase.append {ready : Bool} {s : State} {payload : List Byte} {k l : CoreState} {p : Option Micro}
    {n : Nat} {fs : List TxFrame} {xs : List (Option Byte)} (h : FeedPhase ready s payload k p n fs)
    (hl : held s.cfg l .chIn = held s.cfg k .chIn ++ xs) (hre : SameReassembler k l) (hpkt : l.pktBuf = k.pktBuf)
    (hseq : l.seq = k.seq) : FeedPhase ready s payload l p n fs := by
  have ⟨hrs, hexp, hrec⟩ := hre
  cases h with
  | header hwait hs hp => exact .header (hrs.trans hwait) (hseq.trans hs) fun m hm => (hp m hm).append hl
  | payload hc hpart hp =>
    rw [← hrec]
    exact .payload (hc.congr hre hpkt hseq) (hpart.congr hre) fun m hm =>
      (hp m hm).append hl (by rw [CoreState.wanted, hexp, hrec, CoreState.wanted])
  | send hc hfull => exact .send (hc.congr hre hpkt hseq) (by rw [hrec, hexp, hfull])
  | count hpres => exact .count hpres
  | done hwait hpres => exact .done (hrs.trans hwait) hpres

theorem FeedState.grow {ready : Bool} {s u v : State} {payload a xs : List Byte} {fs : List TxFrame}
    (h : FeedState ready s payload a fs u) (hg : GrowsInward u v xs) :
    FeedState ready s payload (a ++ xs) fs v := by
  obtain ⟨n, hfed, hphase⟩ := h.stands
  have hqueue := hg.queue
  have hchan := hg.channel
  rw [h.cfg] at hqueue hchan
  refine ⟨hg.cfg.trans h.cfg, fun q hq => h.port q (hg.pending ▸ hq), n, ⟨hchan hfed.channel, ?_, ?_, ?_, ?_⟩, ?_⟩
  · rw [hqueue, hfed.queue, List.drop_append_of_le_length hfed.taken, List.map_append]
  · exact hfed.taken.trans (by simp)
  · rw [hg.filterKey, hfed.filterKey]
  · rw [hg.ownAddr, hfed.ownAddr]
  · rw [hg.pending]
    exact hphase.append hqueue hg.reassembler hg.pktBuf hg.seq

/-! ### The header read and the payload read -/

section
variable {s : State} {l : Half} {payload a data : List Byte} {k : CoreState}

/-- The header read takes the length of the packet. -/
theorem headerLen_of_fed (hpre : a <+: packetBytes l payload) (h : Fed s a 0 k) (htwo : 2 ≤ occ s.cfg k .chIn)
    (hdata : data.map some = (held s.cfg k .chIn).take 2) (ticket : Nat) : headerLen ticket data = l := by
  obtain ⟨rest, hrest⟩ := hpre
  rw [h.occ_eq] at htwo
  have hbyte {i : Nat} (hi : i < 2) : data[i]? = (packetBytes l payload)[i]? := by
    rw [h.getElem?_copied hdata hi, ← hrest, List.getElem?_append_left (by omega), Nat.zero_add]
  rw [headerLen, hbyte (by decide), hbyte (by decide)]
  exact be16_hi8_lo8 l

/-- The packet has begun once the header is consumed. -/
theorem Fed.startPacket (hp : IsPacket s.cfg l payload) (h : Fed s a 0 k) (htwo : 2 ≤ occ s.cfg k .chIn)
    (hseq : k.seq = s.core.seq) :
    Fed s a 2 ((readPublish s.cfg k .chIn 2).startPacket l) ∧
      Collects s payload ((readPublish s.cfg k .chIn 2).startPacket l) ∧
      PartialOk ((readPublish s.cfg k .chIn 2).startPacket l) := by
  have hcons := (consumed_readPublish h.channel htwo).congr (m := (readPublish s.cfg k .chIn 2).startPacket l)
    fun c => by simp
  have hfed := h.consume htwo hcons (by simp [readPublish]) (by simp [readPublish])
  refine ⟨hfed, ⟨rfl, hp.length, fun i hi => absurd hi (Nat.not_lt_zero i), by simpa [readPublish] using hseq⟩,
    rfl, ?_⟩
  exact hp.pos.trans_eq hp.length.symm

/-- The payload read puts the next bytes of the packet behind those received. -/
theorem Fed.receive (hpre : a <+: packetBytes l payload) (h : Fed s a (2 + k.received.toNat) k)
    (hc : Collects s payload k) {m : Nat} (hocc : m ≤ occ s.cfg k .chIn) (hwant : m ≤ k.wanted)
    (hdata : data.map some = (held s.cfg k .chIn).take m) :
    Fed s a (2 + (k.receive s.cfg m data).received.toNat) (k.receive s.cfg m data) ∧
      Collects s payload (k.receive s.cfg m data) := by
  have hlen : data.length = m := by
    have := congrArg List.length hdata
    simpa [Nat.min_eq_left hocc] using this
  have hrec := receive_received_toNat (cfg := s.cfg) (data := data) hwant
  have hfed := h.consume hocc (consumed_receive data h.channel hocc) rfl rfl
  rw [hrec, ← Nat.add_assoc]
  refine ⟨hfed, hc.rsState, hc.expected, fun i hi => ?_, (receive_seq ..).trans hc.seq⟩
  rw [hrec] at hi
  rcases Nat.lt_or_ge i k.received.toNat with hold | hnew
  · rw [read_receive_old hlen (.inl hold)]
    exact hc.written i hold
  · obtain ⟨rest, hrest⟩ := hpre
    obtain ⟨j, rfl⟩ := Nat.exists_eq_add_of_le hnew
    have hj : j < m := by omega
    rw [h.occ_eq] at hocc
    rw [read_receive_new hlen hj, h.getElem?_copied hdata hj, ← packetBytes_getElem?_add_two l payload, ← hrest,
      List.getElem?_append_left (by omega), Nat.add_assoc]

end

/-! ### The first micro-step of a tick -/

theorem tickFirst_of_short {s : State} (hrs : s.core.rsState = .waitHeader) (h : occ s.cfg s.core .chIn < 2) :
    tickFirst s = endTick s := by simp [tickFirst, hrs, h]

theorem tickFirst_of_two {s : State} (hrs : s.core.rsState = .waitHeader) (h : 2 ≤ occ s.cfg s.core .chIn) :
    tickFirst s = s.pause .tickHeaderSnap := by simp [tickFirst, hrs, Nat.not_lt.2 h]

theorem tickFirst_of_accumulate {s : State} (hrs : s.core.rsState = .accumulate) :
    tickFirst s = s.pause (.tickPayloadCopy (readSnap s.cfg s.core .chIn s.core.wanted)) := by
  simp [tickFirst, hrs]

/-! ### The TX.SEND of the packet -/

/-- A packet collected whole is handed on unmodified. -/
theorem Collects.packet_eq {s : State} {payload : List Byte} {k : CoreState} (h : Collects s payload k)
    (hfull : k.received = k.expected) (ticket : Nat) : packet ticket k = payload := by
  apply List.ext_getElem? fun i => ?_
  rcases Nat.lt_or_ge i k.expected.toNat with hi | hi
  · have hread := h.written i (hfull ▸ hi)
    rw [packet_getElem? ticket hi, hread]
    rw [hread, List.getElem?_eq_getElem (h.expected ▸ hi)]
    rfl
  · rw [List.getElem?_eq_none (by rwa [packet_length]), List.getElem?_eq_none (h.expected ▸ hi)]

/-- A state on port T of the CORE of `s`, with no frame presented yet in this step. -/
structure FeedTick (s u : State) : Prop where
  cfg : u.cfg = s.cfg
  port : u.cur.port = .t
  tx : u.tx = none

theorem FeedTick.setCore {s u : State} (h : FeedTick s u) (k : CoreState) : FeedTick s (u.setCore k) :=
  ⟨h.cfg, h.port, h.tx⟩

section
variable {ready : Bool} {s u t : State} {l : Half} {payload a : List Byte} {fs : List TxFrame} {n : Nat}

/-- The atomic block presents the one frame where the flag is set, and none where it is clear. -/
theorem presents_sendAttempt (hu : FeedTick s u) (hfed : Fed s a n u.core) (hc : Collects s payload u.core)
    (hready : u.core.txReady = ready) : Presents ready s payload (sendAttempt payload u).2.tx.toList := by
  subst hready
  rcases sendAttempt_cases payload u with ⟨hbusy, h⟩ | ⟨hset, -, -, hframe, -⟩
  · rw [h, hu.tx]
    exact ⟨fun hr => absurd hr (by simp [hbusy]), fun _ => rfl⟩
  · refine ⟨fun _ => ⟨_, by rw [hframe, Option.toList_some], ?_, txLenOf_toNat⟩, fun hr => absurd hr (by simp [hset])⟩
    rw [hu.cfg, hc.seq, buildHeader_congr hfed.filterKey hfed.ownAddr]

/-! ### A tick that stops or ends -/

theorem FeedState.quiet (h : FeedState ready s payload a fs t) (htx : t.tx = none) :
    FeedState ready s payload a (fs ++ t.tx.toList) t := by
  simpa [htx] using h

theorem feedState_pause {m : Micro} (hcfg : u.cfg = s.cfg) (hport : u.cur.port = .t) (hm : m.ofTick = true)
    (hfed : Fed s a n u.core) (hphase : FeedPhase ready s payload u.core (some m) n fs) :
    FeedState ready s payload a fs (u.pause m) := by
  have hpend : (u.pause m).tickPending = some ⟨u.cur, m⟩ := by rw [pause_tickPending, if_pos hm]
  refine ⟨hcfg, fun q hq => ?_, n, hfed, by simpa [hpend] using hphase⟩
  obtain rfl := Option.some.inj (hpend.symm.trans hq)
  exact hport

theorem feedState_endTick (hcfg : u.cfg = s.cfg) (hport : u.cur.port = .t) (hfed : Fed s a n u.core)
    (hphase : FeedPhase ready s payload u.core none n fs) : FeedState ready s payload a fs (endTick u) := by
  have hpend : (endTick u).tickPending = none :=
    tickPending_of_none ((State.finish_inProgress ..).trans (if_pos hport))
  refine ⟨by simpa [endTick] using hcfg, fun q hq => ?_, n, by simpa [endTick] using hfed,
    by rw [hpend]; simpa [endTick] using hphase⟩
  rw [hpend] at hq; cases hq

/-- A tick that stops before its next micro-step with no frame presented. -/
theorem FeedTick.stops {m : Micro} (hu : FeedTick s u) (hm : m.ofTick = true) (hfed : Fed s a n u.core)
    (hphase : FeedPhase ready s payload u.core (some m) n fs) :
    FeedState ready s payload a (fs ++ (u.pause m).tx.toList) (u.pause m) :=
  (feedState_pause hu.cfg hu.port hm hfed hphase).quiet hu.tx

theorem FeedTick.ends (hu : FeedTick s u) (hfed : Fed s a n u.core)
    (hphase : FeedPhase ready s payload u.core none n fs) :
    FeedState ready s payload a (fs ++ (endTick u).tx.toList) (endTick u) :=
  (feedState_endTick hu.cfg hu.port hfed hphase).quiet (by simpa [endTick] using hu.tx)

/-! ### Whole ticks -/

/-- The count after the atomic block returns the reassembler to WAIT_HEADER and ends the tick. -/
theorem feedState_tickCount (r : SendResult) (hcfg : u.cfg = s.cfg) (hport : u.cur.port = .t)
    (hfed : Fed s a (2 + payload.length) u.core) (hpres : Presents ready s payload fs) :
    FeedState ready s payload a fs (tickCount r u) :=
  feedState_endTick (u := (sendCount r u).setCore (sendCount r u).core.awaitHeader) hcfg hport
    (hfed.congr (by simp [sendCount]) rfl rfl) (.done rfl hpres)

/-- The atomic block leaves CH_IN and the environment alone. -/
theorem fed_sendAttempt (hfed : Fed s a n u.core) : Fed s a n (sendAttempt payload u).2.core := by
  rw [sendAttempt_frame]
  exact hfed.congr rfl rfl rfl

/-- The TX.SEND of the packet in a whole tick. -/
theorem FeedTick.sends (hp : IsPacket s.cfg l payload) (hu : FeedTick s u)
    (hfed : Fed s a (2 + payload.length) u.core) (hc : Collects s payload u.core)
    (hfull : u.core.received = u.core.expected) (hready : u.core.txReady = ready) :
    FeedState ready s payload a (tickSend u).tx.toList (tickSend u) := by
  rw [tickSend_of_valid (by rw [hu.cfg, hc.expected]; exact hp.badLength), hc.packet_eq hfull, tickCount_tx]
  have hpres := presents_sendAttempt hu hfed hc hready
  have hfed' := fed_sendAttempt (payload := payload) hfed
  have hframe := sendAttempt_frame payload u
  exact feedState_tickCount _ (hframe ▸ hu.cfg) (hframe ▸ hu.port) hfed' hpres

/-- The payload read of a tick, whole or as its publishing micro-step. -/
theorem FeedTick.receives {w : State} {m : Nat} {data : List Byte} (hpre : a <+: packetBytes l payload)
    (hu : FeedTick s u) (hfed : Fed s a (2 + u.core.received.toNat) u.core) (hc : Collects s payload u.core)
    (hpart : PartialOk u.core) (hocc : m ≤ occ s.cfg u.core .chIn) (hwant : m ≤ u.core.wanted)
    (hdata : data.map some = (held s.cfg u.core .chIn).take m)
    (hw : w = u.setCore (u.core.receive u.cfg m data)) :
    FeedTick s w ∧ Fed s a (2 + w.core.received.toNat) w.core ∧ Collects s payload w.core ∧
      (w.core.received ≠ w.core.expected → PartialOk w.core) ∧ w.core.txReady = u.core.txReady := by
  rw [hu.cfg] at hw
  subst hw
  obtain ⟨hfed', hc'⟩ := hfed.receive hpre hc hocc hwant hdata
  exact ⟨hu.setCore _, hfed', hc', hpart.receive hwant, by simp⟩

/-- The payload read of a whole tick, and the TX.SEND where it completes the packet. -/
theorem FeedTick.accumulates (hp : IsPacket s.cfg l payload) (hpre : a <+: packetBytes l payload) (hu : FeedTick s u)
    (hfed : Fed s a (2 + u.core.received.toNat) u.core) (hc : Collects s payload u.core) (hpart : PartialOk u.core)
    (ht : tickAccumulate u = .next t)
    (hready : Fed s a (2 + payload.length) t.core → t.core.rsState = .waitHeader → u.core.txReady = ready) :
    FeedState ready s payload a t.tx.toList t := by
  have ⟨_, _, _, _, hwritten⟩ := hfed.channel
  obtain ⟨m, data, w, hm, hdata, hw, hend⟩ := tickAccumulate_next ht
  rw [hu.cfg] at hm hdata
  have hocc : m ≤ occ s.cfg u.core .chIn := hm ▸ Nat.min_le_right _ _
  have hwant : m ≤ u.core.wanted := hm ▸ Nat.min_le_left _ _
  obtain ⟨hwt, hfed', hc', hpart', hflag⟩ :=
    hu.receives hpre hfed hc hpart hocc hwant (hdata ▸ readCopy_eq_held _ hocc hwritten) hw
  rcases hend with ⟨hfull, rfl⟩ | ⟨hne, rfl⟩
  · rw [hfull, hc'.expected] at hfed'
    have hkept := tickSendKeeps (s := w) (by rw [hwt.cfg, hc'.expected]; exact hp.badLength)
    exact hwt.sends hp hfed' hc' hfull
      (hflag.trans (hready (hfed'.congr (hkept.chan _) hkept.filterKey hkept.ownAddr) hkept.rsState))
  · exact hwt.ends hfed' (.payload hc' (hpart' hne) nofun)

/-- The header read of a whole tick, and what follows it in the same tick. -/
theorem FeedTick.readsHeader (hp : IsPacket s.cfg l payload) (hpre : a <+: packetBytes l payload) (hu : FeedTick s u)
    (hfed : Fed s a 0 u.core) (hrs : u.core.rsState = .waitHeader) (hseq : u.core.seq = s.core.seq)
    (ht : tickHeader u = .next t)
    (hready : Fed s a (2 + payload.length) t.core → t.core.rsState = .waitHeader → u.core.txReady = ready) :
    FeedState ready s payload a t.tx.toList t := by
  have ⟨_, _, _, _, hwritten⟩ := hfed.channel
  rcases Nat.lt_or_ge (occ u.cfg u.core .chIn) 2 with hshort | htwo
  · rw [tickHeader_of_short hshort] at ht
    cases ht
    exact hu.ends hfed (.header hrs hseq nofun)
  · rw [hu.cfg] at htwo
    have hlen := headerLen_of_fed hpre hfed htwo (readCopy_eq_held u.cur.ticket htwo hwritten) u.cur.ticket
    obtain ⟨hfed', hc, hpart⟩ := hfed.startPacket hp htwo hseq
    rw [tickHeader_of_two (l := l) (by rwa [hu.cfg]) (by rw [hu.cfg, hlen]), hu.cfg,
      if_neg (by rw [badHeader, hp.length, hp.badLength]; decide)] at ht
    exact (hu.setCore ((readPublish s.cfg u.core .chIn 2).startPacket l)).accumulates hp hpre hfed' hc hpart ht
      fun h hwait => by simpa [readPublish] using hready h hwait

/-- With the packet consumed CH_IN holds nothing more. -/
theorem occ_eq_zero_of_consumed (hpre : a <+: packetBytes l payload) {k : CoreState}
    (hfed : Fed s a (2 + payload.length) k) : occ s.cfg k .chIn = 0 := by
  have hlen := hpre.length_le
  rw [packetBytes_length] at hlen
  rw [hfed.occ_eq]
  omega

/-! ### Every tick issued -/

/-- The first micro-step of a tick. -/
theorem FeedTick.begins (hpre : a <+: packetBytes l payload) (hu : FeedTick s u) (hfed : Fed s a n u.core)
    (hphase : FeedPhase ready s payload u.core none n fs) :
    FeedState ready s payload a (fs ++ (tickFirst u).tx.toList) (tickFirst u) := by
  cases hphase with
  | header hrs hseq hno =>
    rcases Nat.lt_or_ge (occ s.cfg u.core .chIn) 2 with hshort | htwo
    · rw [tickFirst_of_short hrs (hu.cfg ▸ hshort)]
      exact hu.ends hfed (.header hrs hseq hno)
    · rw [tickFirst_of_two hrs (hu.cfg ▸ htwo)]
      exact hu.stops rfl hfed (.header hrs hseq fun m hm => Option.some.inj hm ▸ htwo)
  | payload hc hpart hno =>
    rw [tickFirst_of_accumulate hc.rsState, hu.cfg]
    refine hu.stops rfl hfed (.payload hc hpart fun m hm => Option.some.inj hm ▸ ?_)
    exact ⟨Nat.min_le_right _ _, Nat.min_le_left _ _⟩
  | done hrs hpres =>
    rw [tickFirst_of_short hrs (by rw [hu.cfg, occ_eq_zero_of_consumed hpre hfed]; decide)]
    exact hu.ends hfed (.done hrs hpres)

/-- A tick issued, whole or its first micro-step. -/
theorem FeedState.tick {v : State} (hp : IsPacket s.cfg l payload) (hpre : a <+: packetBytes l payload)
    (h : FeedState ready s payload a fs v) (htx : v.tx = none) (hfree : v.tickPending = none)
    (hexec : exec .raTick v = .next t)
    (hready : t.core.chIn.tail ≠ v.core.chIn.tail → t.core.rsState = .waitHeader → v.core.txReady = ready) :
    FeedState ready s payload a (fs ++ t.tx.toList) t := by
  obtain ⟨n, hfed, hphase⟩ := h.stands
  simp only [hfree, Option.map_none] at hphase
  have hran := exec_next hexec
  have hg : gate v .tick = none := gateOf_eq_none hexec
  have hport := port_of_gate_tick hg
  have hu : FeedTick s (v.noteUse .tick) := ⟨h.cfg, hport, htx⟩
  have hside := (hran.tickKeeps hport nofun nofun nofun).core.channel .chIn
  have hsent (hn : n < 2 + payload.length) (h' : Fed s a (2 + payload.length) t.core) :
      t.core.rsState = .waitHeader → v.core.txReady = ready := hready (hfed.tail_ne h' hn hside)
  cases hran with
  | raTickStart => exact hu.begins hpre hfed hphase
  | raTickHeader _ _ hrs ht =>
    cases hphase with
    | header _ hseq => exact hu.readsHeader hp hpre hfed hrs hseq ht (hsent (by omega))
    | payload hc => rw [hc.rsState] at hrs; cases hrs
    | done _ hpres =>
      have hnone : occ v.cfg v.core .chIn < 2 := by rw [h.cfg, occ_eq_zero_of_consumed hpre hfed]; decide
      rw [tickHeader_of_short (s := v.noteUse .tick) hnone] at ht
      cases ht
      exact hu.ends hfed (.done hrs hpres)
  | raTickPayload _ _ hrs ht =>
    cases hphase with
    | payload hc hpart =>
      have := hpart.2
      have := hc.expected
      exact hu.accumulates hp hpre hfed hc hpart ht (hsent (by omega))
    | header hwait | done hwait => rw [hwait] at hrs; cases hrs

/-! ### Every micro-step of a tick -/

/-- A micro-step of the header read. -/
theorem FeedTick.headerMicro {m : Micro} (hp : IsPacket s.cfg l payload) (hpre : a <+: packetBytes l payload)
    (hu : FeedTick s u) (hfed : Fed s a 0 u.core) (hrs : u.core.rsState = .waitHeader)
    (hseq : u.core.seq = s.core.seq) (hm : m.ReadsHeader s.cfg u.core) (h : microStep m u = .next t) :
    FeedState ready s payload a t.tx.toList t := by
  have ⟨_, _, _, _, hwritten⟩ := hfed.channel
  have hstop {m : Micro} (htick : m.ofTick = true) (hread : m.ReadsHeader s.cfg u.core) :
      FeedState ready s payload a (u.pause m).tx.toList (u.pause m) :=
    hu.stops htick hfed (.header hrs hseq fun m' hm' => Option.some.inj hm' ▸ hread)
  simp only [microStep, hu.cfg, hp.wf, Bool.true_eq_false, if_false] at h
  cases m with
  | tickHeaderSnap =>
    cases h
    exact hstop rfl ⟨readSnap_of_le hm, hm⟩
  | tickHeaderCopy n =>
    cases h
    obtain ⟨rfl, htwo⟩ := hm
    exact hstop rfl ⟨rfl, htwo, readCopy_eq_held _ htwo hwritten⟩
  | tickHeaderPublish n data =>
    cases h
    obtain ⟨rfl, htwo, hdata⟩ := hm
    have hlen := headerLen_of_fed hpre hfed htwo hdata u.cur.ticket
    obtain ⟨hfed', hc, hpart⟩ := hfed.startPacket hp htwo hseq
    have htake : tickTakeHeader 2 data u =
        (u.setCore ((readPublish s.cfg u.core .chIn 2).startPacket l)).pause .tickPayloadSnap := by
      simp only [tickTakeHeader, hlen, hu.cfg, badHeader, hp.length, hp.badLength]
      rfl
    rw [htake]
    exact (hu.setCore _).stops rfl hfed' (.payload hc hpart fun m hm => by cases hm; trivial)
  | _ => exact hm.elim

/-- A micro-step of the payload read. -/
theorem FeedTick.payloadMicro {m : Micro} (hp : IsPacket s.cfg l payload) (hpre : a <+: packetBytes l payload)
    (hu : FeedTick s u) (hfed : Fed s a (2 + u.core.received.toNat) u.core) (hc : Collects s payload u.core)
    (hpart : PartialOk u.core) (hm : m.ReadsPayload s.cfg u.core) (h : microStep m u = .next t) :
    FeedState ready s payload a t.tx.toList t := by
  have ⟨_, _, _, _, hwritten⟩ := hfed.channel
  have hstop {m : Micro} (htick : m.ofTick = true) (hread : m.ReadsPayload s.cfg u.core) :
      FeedState ready s payload a (u.pause m).tx.toList (u.pause m) :=
    hu.stops htick hfed (.payload hc hpart fun m' hm' => Option.some.inj hm' ▸ hread)
  simp only [microStep, hu.cfg, hp.wf, Bool.true_eq_false, if_false] at h
  cases m with
  | tickPayloadSnap =>
    cases h
    exact hstop rfl ⟨Nat.min_le_right _ _, Nat.min_le_left _ _⟩
  | tickPayloadCopy n =>
    cases h
    obtain ⟨hocc, hwant⟩ := hm
    exact hstop rfl ⟨hocc, hwant, readCopy_eq_held _ hocc hwritten⟩
  | tickPayloadPublish n data =>
    obtain ⟨hocc, hwant, hdata⟩ := hm
    obtain ⟨w, hw, hend⟩ := tickTakePayload_next h
    obtain ⟨hwt, hfed', hc', hpart', -⟩ := hu.receives hpre hfed hc hpart hocc hwant hdata hw
    rcases hend with ⟨hfull, rfl⟩ | ⟨hne, rfl⟩
    · rw [hfull, hc'.expected] at hfed'
      exact hwt.stops rfl hfed' (.send hc' hfull)
    · exact hwt.ends hfed' (.payload hc' (hpart' hne) nofun)
  | _ => exact hm.elim

/-- The atomic block of the TX.SEND of a tick. -/
theorem FeedTick.attempts (hp : IsPacket s.cfg l payload) (hu : FeedTick s u)
    (hfed : Fed s a (2 + payload.length) u.core) (hc : Collects s payload u.core)
    (hfull : u.core.received = u.core.expected) (hready : u.core.txReady = ready) :
    FeedState ready s payload a (tickAttempt u).tx.toList (tickAttempt u) := by
  have hvalid : badLength u.cfg u.core.expected.toNat = false := by rw [hu.cfg, hc.expected]; exact hp.badLength
  have hattempt : tickAttempt u = (sendAttempt payload u).2.pause (.tickCount (sendAttempt payload u).1) := by
    simp [tickAttempt, hvalid, hc.packet_eq hfull]
  have hframe := sendAttempt_frame payload u
  rw [hattempt]
  exact feedState_pause (hframe ▸ hu.cfg) (hframe ▸ hu.port) rfl (fed_sendAttempt hfed)
    (.count (presents_sendAttempt hu hfed hc hready))

/-- The micro-step of a tick in progress. -/
theorem FeedState.micro {v : State} {q : InProgress} (hp : IsPacket s.cfg l payload)
    (hpre : a <+: packetBytes l payload) (h : FeedState ready s payload a fs v) (htx : v.tx = none)
    (hq : v.tickPending = some q) (hmicro : microStep q.next { v with cur := q.op } = .next t)
    (hready : q.next = .tickSend → v.core.txReady = ready) :
    FeedState ready s payload a (fs ++ t.tx.toList) t := by
  obtain ⟨n, hfed, hphase⟩ := h.stands
  have hu : FeedTick s { v with cur := q.op } := ⟨h.cfg, h.port q hq, htx⟩
  have hwf : v.cfg.wf = true := by rw [h.cfg]; exact hp.wf
  simp only [hq, Option.map_some] at hphase
  obtain ⟨op, m⟩ := q
  cases hphase with
  | header hrs hseq hread => exact hu.headerMicro hp hpre hfed hrs hseq (hread m rfl) hmicro
  | payload hc hpart hread => exact hu.payloadMicro hp hpre hfed hc hpart (hread m rfl) hmicro
  | send hc hfull =>
    simp only [microStep, hwf, Bool.true_eq_false, if_false] at hmicro
    cases hmicro
    exact hu.attempts hp hfed hc hfull (hready rfl)
  | count hpres =>
    simp only [microStep, hwf, Bool.true_eq_false, if_false] at hmicro
    cases hmicro
    exact (feedState_tickCount _ hu.cfg hu.port hfed hpres).quiet (by simpa using htx)

/-! ### The law -/

/-- A feed of the packet, as far as it has come, keeps the invariant. -/
theorem Feed.state (hp : IsPacket s.cfg l payload) (h : FeedState ready s payload [] [] s) (hf : Feed ready s a fs t)
    (hpre : a <+: packetBytes l payload) : FeedState ready s payload a fs t := by
  induction hf with
  | start => exact h
  | write _ hsame hexec hr hall ih =>
    have hv := (ih ((List.prefix_append _ _).trans hpre)).grow (growsInward_of_sameInward hsame)
    rw [List.append_nil] at hv
    obtain ⟨n, hfed, -⟩ := hv.stands
    exact hv.grow (growsInward_chWrite (hv.cfg ▸ hfed.channel) hexec hr hall)
  | tick _ hsame htx hfree hexec hready ih =>
    have hv := (ih hpre).grow (growsInward_of_sameInward hsame)
    rw [List.append_nil] at hv
    exact hv.tick hp hpre htx hfree hexec hready
  | micro _ hsame htx hq hmicro hready ih =>
    have hv := (ih hpre).grow (growsInward_of_sameInward hsame)
    rw [List.append_nil] at hv
    exact hv.micro hp hpre htx hq hmicro hready

end

/-- A feed begins in WAIT_HEADER with CH_IN empty and no tick in progress. -/
theorem feedState_start {ready : Bool} {s : State} {payload : List Byte} (hok : ChannelOk s.cfg s.core .chIn)
    (hfree : s.tickPending = none) (hrs : s.core.rsState = .waitHeader) (hocc : occ s.cfg s.core .chIn = 0) :
    FeedState ready s payload [] [] s := by
  refine ⟨rfl, fun q hq => ?_, 0, ⟨hok, held_eq_nil hocc, le_rfl, rfl, rfl⟩, .header hrs rfl fun m hm => ?_⟩
  · rw [hfree] at hq; cases hq
  · rw [hfree] at hm; cases hm

/-- Settles O43: of the places where a packet written whole may stand, only those after its atomic block leave CH_IN
empty in WAIT_HEADER. -/
theorem endToEndLaw : Obligations.EndToEndLaw := by
  intro s t payload l ready fs hwf hok hfree hrs hocc hl hpos hle hfeed hempty hwait
  have hp : IsPacket s.cfg l payload := ⟨hwf, hl, hpos, hle⟩
  have hstate := hfeed.state hp (feedState_start (hok.1 .chIn) hfree hrs hocc) (List.prefix_refl _)
  obtain ⟨n, hfed, hphase⟩ := hstate.stands
  have hleft : 0 = (packetBytes l payload).length - n := by
    rw [← hempty, hstate.cfg]
    exact hfed.occ_eq
  rw [packetBytes_length] at hleft
  generalize t.tickPending.map (·.next) = p at hphase
  cases hphase with
  | header => omega
  | payload hc | send hc => rw [hc.rsState] at hwait; cases hwait
  | count hpres | done _ hpres => exact hpres

end Sys2Proof.Machine
end

section
/-! The counter bank (44_counters.md): what CNT.READ and CNT.RESET do, and which counters an operation may change
(R171 to R173). -/

namespace Sys2Proof.Machine

/-! ### The indices -/

theorem counterOf_of_index {index : BitVec 3} {c : Counter} (h : index.toNat = counterIndex c) :
    counterOf index = some c := by
  rw [counterOf, h]
  cases c <;> rfl

/-- The indices 6 and 7 name no counter (30_encoding.md R84). -/
theorem counterOf_eq_none {index : BitVec 3} (h : 5 < index.toNat) : counterOf index = none := by
  unfold counterOf
  split
  case h_7 => rfl
  all_goals omega

theorem exec_cntRead_of_none {index : BitVec 3} {s : State} (hg : gate s .anyPort = none)
    (h : counterOf index = none) :
    exec (.cntRead index) s = .refused (.illegalCommandWord (.counterIndex index)) := by
  simp only [exec, execCntRead, hg, h]

/-! ### The counters of an operation -/

/-- The end of the operation changes no counter. -/
theorem SameCountersBut.finish {cs : List Counter} {k : CoreState} {u : State} (h : SameCountersBut cs k u.core)
    (r : PortResult) : SameCountersBut cs k (u.finish r).core := by
  rwa [State.finish_core]

theorem endRead_cnt (ch : Chan) (n : Nat) (data : List Byte) (s : State) :
    (endRead ch n data s).core.cnt = s.core.cnt := by simp [endRead]

theorem endGetb_cnt (ch : Chan) (b : Byte) (s : State) : (endGetb ch b s).core.cnt = s.core.cnt := by simp [endGetb]

/-- R173, the table, row by row: CH.WRITE, CH.PUTB and RX.CAPTURE count what they store and reject, RA.TICK and
TX.SEND are on port T, and the rest leave the counters alone. -/
theorem Ran.counters {i : Instr} {s t : State} (h : Ran s i t) (hsys : i ≠ .sysInit) (hreset : i ≠ .cntReset) :
    SameCountersBut (countersOf i) s.core t.core := by
  have hran := h
  cases h with
  | sysInit => exact absurd rfl hsys
  | cntReset => exact absurd rfl hreset
  | chWrite ch => exact (sameCountersBut_writeChan (List.mem_singleton_self _) _ _ _).finish _
  | chPutbFull ch => exact (sameCountersBut_bump (List.mem_singleton_self _) _ _ _).finish _
  | rxCaptureReject => exact (sameCountersBut_bump (by simp [countersOf]) _ _ _).finish _
  | rxCapture =>
    exact ((sameCountersBut_writeChan (by simp [countersOf, ovfOf]) _ _ _).trans
      (sameCountersBut_bump (by simp [countersOf]) _ _ _)).finish _
  | raTickStart hg | raTickHeader hg | raTickPayload hg =>
    exact (hran.tickKeeps (port_of_gate_tick hg) nofun nofun nofun).core.counters
  | txSendBad _ hg | txSendStart _ _ hg | txSend _ _ hg =>
    exact (hran.tickKeeps (port_of_gate_tickPort hg) nofun nofun nofun).core.counters
  | chRead => exact sameCountersBut_of_cnt_eq (endRead_cnt ..) _
  | chGetb => exact sameCountersBut_of_cnt_eq (endGetb_cnt ..) _
  | chInit | chAvail | chReadStart | chGetbEmpty | chGetbStart | chPutb | frmBuild | frmParse | txDone | cntRead =>
    exact sameCountersBut_of_cnt_eq (by simp) _

/-! ### The statements -/

/-- Settles O45: an index of at most 5 names its counter, the indices 6 and 7 name none. -/
theorem cntReadReturnsTheCounter : Obligations.CntReadReturnsTheCounter := by
  refine ⟨fun s p c index h hindex => ?_, fun s p index h hindex => ?_⟩
  · exact ⟨_, _, exec_of_ran (.cntRead index c (gate_anyPort h) (counterOf_of_index hindex)), by simp, by simp, by simp,
      returns_finish_zero rfl rfl, rcountOf_toNat⟩
  · exact exec_cntRead_of_none (gate_anyPort h) (counterOf_eq_none hindex)

/-- Settles O46: CNT.RESET writes the bank of zeros. -/
theorem cntResetZeroesAll : Obligations.CntResetZeroesAll := by
  intro s p h
  refine ⟨_, _, exec_of_ran (.cntReset (gate_anyPort h)), fun c => ?_, by simp, by simp, by simp,
    returns_finish_zero rfl rfl⟩
  cases c <;> simp [Counters.get]

/-- Settles O47: an operation by what it can do, a micro-step by the frame of port T. -/
theorem operationsIncrementOnlyTheirCounters : Obligations.OperationsIncrementOnlyTheirCounters :=
  ⟨fun _ _ _ h => (exec_next h).counters, fun _ _ _ h => (microStep_tickKeeps h).core.counters⟩

end Sys2Proof.Machine
end

section
/-! Refusals and stops (60_exceptions.md R180, R186, R189): where the port table refuses an operation, that no good
state faults, and what an event leaves of the operation in progress on port T. -/

namespace Sys2Proof.Machine

/-! ### The port table (R189) -/

/-- What the table says of an operation is what `portRefusal` answers for its kind of access. -/
theorem portAllows_iff {s : State} {i : Instr} :
    PortAllows s i ↔ portRefusal s.runUse s.cur.port (accessOf i) = none := by
  cases i with
  | sysInit | chInit | frmBuild | txSend => exact portRefusal_tickPort.symm
  | txDone => exact portRefusal_eventPort.symm
  | chAvail | frmParse | cntRead | cntReset => exact iff_of_true trivial (portRefusal_anyPort _ _)
  | rxCapture => exact portRefusal_capture.symm
  | raTick => exact portRefusal_tick.symm
  | chRead ch | chGetb ch =>
    cases ch with
    | chIn => exact portRefusal_consume_in.symm
    | chOut => exact portRefusal_consume_out.symm
  | chWrite ch | chPutb ch =>
    cases ch with
    | chIn => exact portRefusal_produce_in.symm
    | chOut => exact portRefusal_produce_out.symm

/-- In a configured, initialised state the gate of an operation is the port table. -/
theorem gateOf_eq_portRefusal {s : State} (hwf : s.cfg.wf = true) (hinit : s.initialised = true) (i : Instr) :
    gateOf i s = portRefusal s.runUse s.cur.port (accessOf i) := by
  cases i <;> simp [gateOf, gateInit, gate, accessOf, hwf, hinit]

/-- The payload read of a tick goes on or faults; it refuses nothing. -/
theorem tickAccumulate_cases (s : State) :
    (∃ t, tickAccumulate s = .next t) ∨ ∃ f, tickAccumulate s = .fault f := by
  unfold tickAccumulate
  simp only
  split
  · exact .inr ⟨_, rfl⟩
  · exact .inl ⟨_, rfl⟩

/-- The header read of a tick ends it, or goes on to the payload read. -/
theorem tickHeader_cases (s : State) : (∃ t, tickHeader s = .next t) ∨ ∃ f, tickHeader s = .fault f := by
  rcases Nat.lt_or_ge (occ s.cfg s.core .chIn) 2 with hshort | htwo
  · exact .inl ⟨_, tickHeader_of_short hshort⟩
  · rw [tickHeader_of_two htwo rfl]
    split
    · exact .inl ⟨_, rfl⟩
    · exact tickAccumulate_cases _

theorem raTick_cases {s : State} (hg : gate s .tick = none) :
    (∃ t, exec .raTick s = .next t) ∨ ∃ f, exec .raTick s = .fault f := by
  cases hwhole : s.stepwise with
  | true => exact .inl ⟨_, exec_of_ran (.raTickStart hg hwhole)⟩
  | false =>
    cases hrs : s.core.rsState with
    | waitHeader => exact exec_raTick_waitHeader hg hwhole hrs ▸ tickHeader_cases _
    | accumulate => exact exec_raTick_accumulate hg hwhole hrs ▸ tickAccumulate_cases _

theorem exec_sysInit_of_broken {s : State} (hg : gateInit s = none) (h : s.confIn.wf = false) :
    exec .sysInit s = .refused .invalidConfiguration := by
  simp [exec, execSysInit, hg, h]

/-- What may become of an operation that has passed its gate (`exec_past_gate`): it goes on; it is refused for the
configuration inputs it samples, for its operand stream, or for a counter index that makes its word illegal; or, where
it is a tick, it faults. It is not refused for its port. -/
inductive PastGate (i : Instr) (s : State) : Prop where
  | next (t : State) : exec i s = .next t → PastGate i s
  | brokenInputs : exec i s = .refused .invalidConfiguration → PastGate i s
  | shortStream : exec i s = .refused .operandStreamShort → PastGate i s
  | illegalIndex (e : IllegalWord) : exec i s = .refused (.illegalCommandWord e) → PastGate i s
  | fault (f : Fault) : i = .raTick → exec i s = .fault f → PastGate i s

theorem PastGate.of_ran {i : Instr} {s t : State} (h : Ran s i t) : PastGate i s := .next t (exec_of_ran h)

theorem exec_past_gate {i : Instr} {s : State} (hg : gateOf i s = none) : PastGate i s := by
  by_cases hs : Supplied s (dinNeed s.cfg (.ok i))
  case neg => exact .shortStream (exec_of_short hg hs)
  cases i with
  | sysInit =>
    cases hwf : s.confIn.wf with
    | true => exact .of_ran (.sysInit hg hwf)
    | false => exact .brokenInputs (exec_sysInit_of_broken hg hwf)
  | chInit ch => exact .of_ran (.chInit ch hg)
  | chAvail ch => exact .of_ran (.chAvail ch hg)
  | chRead ch max =>
    cases hwhole : s.stepwise with
    | true => exact .of_ran (.chReadStart ch max hg hwhole)
    | false => exact .of_ran (.chRead ch max hg hwhole)
  | chWrite ch len => exact .of_ran (.chWrite ch len hg hs)
  | chGetb ch =>
    cases hempty : isEmpty s.core ch with
    | true => exact .of_ran (.chGetbEmpty ch hg hempty)
    | false =>
      cases hwhole : s.stepwise with
      | true => exact .of_ran (.chGetbStart ch hg hempty hwhole)
      | false => exact .of_ran (.chGetb ch hg hempty hwhole)
  | chPutb ch b =>
    cases hfull : isFull s.cfg s.core ch with
    | true => exact .of_ran (.chPutbFull ch b hg hfull)
    | false => exact .of_ran (.chPutb ch b hg hfull)
  | frmBuild => exact .of_ran (.frmBuild hg)
  | frmParse count => exact .of_ran (.frmParse count hg hs)
  | rxCapture count =>
    cases hrej : rejectedAt s.cfg s.core s.cur count (s.operandBytes (bodyLen s.cfg count)) with
    | some g => exact .of_ran (.rxCaptureReject count g hg hs hrej)
    | none => exact .of_ran (.rxCapture count _ hg hs hrej rfl)
  | raTick =>
    rcases raTick_cases hg with ⟨t, ht⟩ | ⟨f, hf⟩
    · exact .next t ht
    · exact .fault f rfl hf
  | txSend len =>
    cases hbad : badLength s.cfg len.toNat with
    | true => exact .of_ran (.txSendBad len hg hs hbad)
    | false =>
      cases hwhole : s.stepwise with
      | true => exact .of_ran (.txSendStart len _ hg hs hbad hwhole rfl)
      | false => exact .of_ran (.txSend len _ hg hs hbad hwhole rfl)
  | txDone => exact .of_ran (.txDone hg)
  | cntRead index =>
    cases hc : counterOf index with
    | some c => exact .of_ran (.cntRead index c hg hc)
    | none => exact .illegalIndex _ (exec_cntRead_of_none hg hc)
  | cntReset => exact .of_ran (.cntReset hg)

/-- Settles O10: the gate of an operation is the port table, and past its gate no operation is refused for its port. -/
theorem portTableIsEnforced : Obligations.PortTableIsEnforced := by
  intro s i hwf hinit
  have hgate := gateOf_eq_portRefusal hwf hinit i
  rw [portAllows_iff, ← hgate]
  cases hg : gateOf i s with
  | none =>
    refine iff_of_false (by simp) ?_
    cases exec_past_gate hg with
    | next _ h | brokenInputs h | shortStream h | illegalIndex _ h | fault _ _ h => simp [h]
  | some r =>
    refine iff_of_true (by simp) ?_
    rcases portRefusal_some (hgate.symm.trans hg) with rfl | ⟨ch, rfl⟩
    · exact .inl ⟨_, exec_of_gate hg⟩
    · exact .inr ⟨ch, exec_of_gate hg⟩

/-! ### No fault from a good state (R180, 20_memory.md R52) -/

/-- Past its gate only a tick could fault, and a tick that port T issues from a good state completes. -/
theorem exec_ne_fault {i : Instr} {s : State} (hs : Inv s) (hfree : s.cur.port = .t → s.inProgress = none)
    (f : Fault) : exec i s ≠ .fault f := by
  intro h
  cases hg : gateOf i s with
  | some r => rw [exec_of_gate hg] at h; cases h
  | none =>
    cases exec_past_gate hg with
    | next t ht => rw [ht] at h; cases h
    | brokenInputs hr | shortStream hr | illegalIndex e hr => rw [hr] at h; cases h
    | fault g hi =>
      subst hi
      obtain ⟨hwf, hinit, hadmit⟩ := gate_eq_none.1 hg
      obtain ⟨hport, huse⟩ := portRefusal_tick.1 hadmit
      obtain ⟨-, hgood, -⟩ := hs
      obtain ⟨hok, hprog⟩ := hgood hinit
      obtain ⟨t, ht⟩ := raTickCompletes s ⟨hwf, hinit, hport⟩ huse hok (hprog.betweenOk (hfree hport))
      rw [ht] at h; cases h

/-- Of the micro-steps only the publication of a payload read can fault, and it stores what the packet wants. -/
theorem microStep_ne_fault {m : Micro} {s : State} (hok : CoreOk s.cfg s.core) (hm : MicroOk s m) (f : Fault) :
    microStep m s ≠ .fault f := by
  unfold microStep
  split
  · nofun
  cases m
  case tickPayloadPublish n data =>
    obtain ⟨-, -, hwant, hpart⟩ := hm
    obtain ⟨-, -, -, hlen⟩ := hok
    simp only [tickTakePayload, storePayload_of_wanted data hlen hpart hwant]
    nofun
  all_goals nofun

/-- A step that faults went on with the operation in progress, or issued one. -/
theorem step_fault {s : State} {f : Fault} (h : step s = .fault f) :
    (∃ q u, s.inProgress = some q ∧ Starts s u ∧ microStep q.next u = .fault f) ∨
    ∃ i u, (u.cur.port = .t → s.inProgress = none) ∧ Starts s u ∧ exec i u = .fault f := by
  rcases fetch_cases s with ⟨u, hf, -⟩ | ⟨ts, q, -, hq, hf⟩ | ⟨p, ts, c, cs, -, hfree, -, hf⟩
  · simp only [step, hf] at h
    cases h
  · simp only [step, hf] at h
    refine .inl ⟨q, _, hq, ?_, h⟩
    exact ⟨rfl, rfl, rfl, rfl, rfl, rfl⟩
  · simp only [step, hf, runWord] at h
    split at h
    · cases h
    next i _ => exact .inr ⟨i, _, hfree, by simp [Starts], h⟩

/-- Settles O50: neither the micro-step gone on with nor the operation issued faults. -/
theorem goodStateNeverFaults : Obligations.GoodStateNeverFaults := by
  intro s f hs h
  rcases step_fault h with ⟨q, u, hq, hst, hmicro⟩ | ⟨i, u, hfree, hst, hexec⟩
  · have ⟨_, _, hprog, _⟩ := hst
    obtain ⟨hok, hm⟩ := (hs.starts hst).of_inProgress (hprog.trans hq)
    exact microStep_ne_fault hok hm f hmicro
  · have ⟨_, _, hprog, _⟩ := hst
    exact exec_ne_fault (hs.starts hst) (fun hp => hprog.trans (hfree hp)) f hexec

/-! ### Events and the operation in progress (R186) -/

/-- Settles O56: the step was idle or issued an operation on port E, which leaves port T's alone. -/
theorem eventsLeaveSnapshots : Obligations.EventsLeaveSnapshots := by
  intro s t h hon
  cases step_next h with
  | idle hs =>
    obtain ⟨-, -, hprog, -⟩ := hs
    exact hprog
  | resume _ _ _ ht => cases hon.port_eq ht
  | issue p c cs i u hp _ _ hs hup _ _ hran =>
    obtain rfl := hon.port_eq hp
    obtain ⟨-, -, hprog, -⟩ := hs
    exact (hran.eventKeeps hup).inProgress.trans hprog

end Sys2Proof.Machine
end

section
/-! The capture of a frame that a peer built (60_exceptions.md R192, R195; program P5 of 95_test_vectors.md). -/

namespace Sys2Proof.Machine

/-! ### The frame as the body of a capture -/

/-- A capture that begins with a header built by a peer of the same key, type code and layout passes the four stages,
where its sidebands and its count are as the duties of the transport say. -/
theorem rejectedAt_peer {x y : Config} {k j : CoreState} {op : Presented} {count : Half} {s : BitVec 12}
    {rest : List Byte} (hx : x.wf = true) (hlayout : y.headerFields = x.headerFields)
    (htype : y.frameTypeCode = x.frameTypeCode) (hkey : j.filterKey = k.filterKey)
    (hmod : op.modInd = y.modBaseline) (hcount : y.minCaptureLen ≤ count.toNat)
    (hpos : 1 ≤ payloadLen op.legacyLen) (hmax : payloadLen op.legacyLen ≤ y.maxPayload) :
    rejectedAt y j op count (buildHeader x k s ++ rest) = none := by
  obtain ⟨hoffFc, -, -, -, hoffA3, -⟩ : y.offFc = x.offFc ∧ y.offDur = x.offDur ∧ y.offA1 = x.offA1 ∧
      y.offA2 = x.offA2 ∧ y.offA3 = x.offA3 ∧ y.offSeq = x.offSeq := by
    simpa [Config.headerFields] using hlayout
  obtain ⟨hfc, -, -, ha3, -⟩ := parseReadsWhatBuildWrote x k s op rest hx
  refine rejectedAt_eq_none.2 ⟨hmod, hcount, ?_, ?_, hpos, hmax⟩
  · rw [htype, ← hfc]
    simp only [parseFields, hoffFc]
  · rw [hkey, ← ha3]
    simp only [parseFields, hoffA3]

/-- The data of a capture that holds the payload its sideband states behind 24 bytes. -/
theorem captureData_of_payload {cfg : Config} {op : Presented} {header payload fcs : List Byte} {l : Half}
    (hheader : header.length = 24) (hlen : op.legacyLen.toNat = 24 + payload.length + 4)
    (hl : l.toNat = payload.length) :
    captureData (parseFields cfg op (header ++ payload ++ fcs)) = packetBytes l payload := by
  obtain ⟨m, read, hdata, hm, hread, hbytes⟩ := captureData_parseFields cfg op (header ++ payload ++ fcs)
  obtain rfl : m = l := BitVec.eq_of_toNat_eq (by omega)
  have hpayload : read = payload := by
    refine List.ext_getElem (hread.trans hl) fun i hi hi' => ?_
    have hcaptured : (header ++ payload ++ fcs)[24 + i]? = some payload[i] := by
      simp [List.getElem?_append, hheader, hi']
    have := hbytes i _ (hread ▸ hi) hcaptured
    rwa [List.getElem?_eq_getElem hi, Option.some_inj] at this
  rw [hdata, hpayload]
  rfl

/-- Settles O34: the stages accept the frame, its data are the packet, and CH_OUT has room for all of them. -/
theorem peerFrameIsCapturedWhole : Obligations.PeerFrameIsCapturedWhole := by
  intro x y s payload fcs count l hx hlayout htype hkey hready huse hok hdin hbody hcount hmod hlegacy hl hpos hmax
    hroom
  have ⟨_, _, hport⟩ := hready
  have hlen : (y.portIn y.cur.port).din.length = bodyLen y.cfg count := by
    rw [hport, hdin, hbody, List.length_append, List.length_append, buildHeader_length]
  have hbytes : y.operandBytes (bodyLen y.cfg count) = buildHeader x.cfg x.core s ++ payload ++ fcs := by
    rw [State.operandBytes, ← hlen, List.take_length, hport, hdin]
  have hrej : rejectedAt y.cfg y.core y.cur count (y.operandBytes (bodyLen y.cfg count)) = none := by
    rw [hbytes, List.append_assoc]
    have hplen : payloadLen y.cur.legacyLen = payload.length := by rw [payloadLen_eq]; omega
    exact rejectedAt_peer hx hlayout htype hkey hmod hcount (by omega) (by omega)
  have hdata := captureData_of_payload (cfg := y.cfg) (fcs := fcs)
    (buildHeader_length (cfg := x.cfg) x.core s) hlegacy hl
  rw [← hbytes] at hdata
  refine ⟨_, exec_of_ran (.rxCapture count _ (gate_capture hready huse) hlen.ge hrej hdata.symm), ?_, ?_⟩ <;>
    simp only [State.finish_core, State.finish_cfg, State.setCore_core, State.setCore_cfg, State.noteUse_cfg,
      State.setPortIn_cfg]
  · have hfits : (packetBytes l payload).length ≤ free y.cfg y.core .chOut := by
      rwa [packetBytes_length]
    have ⟨hheld, _⟩ := appended_capture hok (packetBytes l payload)
    rw [Nat.min_eq_left hfits, List.take_length] at hheld
    exact hheld
  · exact grownBy_capture_rxOk ..

end Sys2Proof.Machine
end

section
/-! What a step leaves in progress on port T (70_reset_and_hazards.md R210, R211): whole operations and last
micro-steps leave nothing, the others a micro-step, and the bytes copied by then stay the oldest held (R212). -/

namespace Sys2Proof.Machine

/-! ### What ends on port T -/

section
variable {s t : State} (hport : s.cur.port = .t)
include hport

theorem inProgress_finish (r : PortResult) : (s.finish r).inProgress = none :=
  (State.finish_inProgress s r).trans (if_pos hport)

theorem inProgress_tickSend : (tickSend s).inProgress = none := by
  unfold tickSend
  split
  · exact inProgress_finish (by exact hport) _
  · refine inProgress_finish ?_ _
    rw [State.setCore_cur, sendCount, State.setCore_cur, sendAttempt_frame]
    exact hport

theorem inProgress_tickAccumulate (h : tickAccumulate s = .next t) : t.inProgress = none := by
  obtain ⟨_, _, _, -, -, rfl, ⟨-, rfl⟩ | ⟨-, rfl⟩⟩ := tickAccumulate_next h
  · exact inProgress_tickSend (by exact hport)
  · exact inProgress_finish (by exact hport) _

theorem inProgress_tickHeader (h : tickHeader s = .next t) : t.inProgress = none := by
  obtain rfl | ⟨-, rfl⟩ | ⟨l, -, -, hpayload⟩ := tickHeader_next h
  · exact inProgress_finish hport _
  · exact inProgress_finish (by exact hport) _
  · exact inProgress_tickAccumulate (by exact hport) hpayload

end

/-! ### What an issued operation leaves in progress -/

/-- The micro-steps that come second in their operation, which the first one leaves in progress. -/
def Micro.Second : Micro → Prop
  | .readCopy _ _ | .getbCopy _ | .tickHeaderSnap | .tickPayloadCopy _ | .sendCount _ => True
  | _ => False

/-- An operation issued on port T has ended, or under `P_PREEMPT` = 1 it stands before its second micro-step. -/
def Begun (s t : State) : Prop :=
  t.inProgress = none ∨ (s.stepwise = true ∧ ∃ q, t.inProgress = some q ∧ q.next.Second)

theorem begun_finish {s u : State} (hport : s.cur.port = .t) (r : PortResult) (hcur : u.cur = s.cur := by simp) :
    Begun s (u.finish r) := .inl (inProgress_finish (hcur ▸ hport) r)

theorem begun_pause {s : State} (h : s.stepwise = true) (u : State) {m : Micro} (hm : m.Second) :
    Begun s (u.pause m) := .inr ⟨h, _, rfl, hm⟩

theorem begun_tickFirst {s u : State} (h : s.stepwise = true) (hcur : u.cur = s.cur) : Begun s (tickFirst u) := by
  unfold tickFirst
  split
  · split
    · exact begun_finish (port_of_stepwise h) _ hcur
    · exact begun_pause h _ trivial
  · exact begun_pause h _ trivial

theorem Ran.begun {i : Instr} {s t : State} (h : Ran s i t) (hport : s.cur.port = .t) : Begun s t := by
  cases h with
  | chReadStart _ _ _ hstep | chGetbStart _ _ _ hstep | txSendStart _ _ _ _ _ hstep =>
    exact begun_pause hstep _ trivial
  | raTickStart _ hstep => exact begun_tickFirst hstep rfl
  | raTickHeader _ _ _ ht => exact .inl (inProgress_tickHeader (s := s.noteUse .tick) hport ht)
  | raTickPayload _ _ _ ht => exact .inl (inProgress_tickAccumulate (s := s.noteUse .tick) hport ht)
  | txSend _ _ _ _ _ _ ha =>
    subst ha
    exact begun_finish hport _ (by rw [sendCount, State.setCore_cur, sendAttempt_frame]; simp)
  | chRead | chGetb => exact begun_finish hport _ rfl
  | _ => exact begun_finish hport _

/-! ### The bytes copied -/

/-- The bytes the micro-step has copied and not yet published are the oldest its channel holds; `copiedOk_iff` ties
it to `CopiedOk`. -/
def Micro.CopiesOldest (cfg : Config) (k : CoreState) : Micro → Prop
  | .readPublish ch n data => data.map some = (held cfg k ch).take n
  | .getbPublish ch b => [some b] = (held cfg k ch).take 1
  | .tickHeaderPublish n data => data.map some = (held cfg k .chIn).take n
  | .tickPayloadPublish n data => data.map some = (held cfg k .chIn).take n
  | _ => True

theorem copiedOk_iff {s : State} :
    CopiedOk s ↔ ∀ q, s.inProgress = some q → q.next.CopiesOldest s.cfg s.core := by
  unfold CopiedOk
  cases hq : s.inProgress with
  | none => simp
  | some q =>
    obtain ⟨op, m⟩ := q
    cases m <;> simp [Micro.CopiesOldest]

theorem copiedOk_of_none {s : State} (h : s.inProgress = none) : CopiedOk s :=
  copiedOk_iff.2 fun q hq => by rw [h] at hq; cases hq

theorem copiedOk_finish {s : State} (hport : s.cur.port = .t) (r : PortResult) : CopiedOk (s.finish r) :=
  copiedOk_of_none (inProgress_finish hport r)

theorem copiedOk_pause {s : State} {m : Micro} (h : m.CopiesOldest s.cfg s.core) : CopiedOk (s.pause m) :=
  copiedOk_iff.2 fun q hq => by cases hq; exact h

/-- Before its second micro-step an operation has copied nothing. -/
theorem Micro.Second.copiesOldest {m : Micro} (h : m.Second) (cfg : Config) (k : CoreState) :
    m.CopiesOldest cfg k := by
  cases m <;> trivial

theorem Begun.copiedOk {s t : State} (h : Begun s t) : CopiedOk t := by
  obtain hnone | ⟨-, q, hq, hm⟩ := h
  · exact copiedOk_of_none hnone
  · exact copiedOk_iff.2 fun p hp => by
      obtain rfl := Option.some.inj (hq.symm.trans hp)
      exact hm.copiesOldest _ _

/-- Bytes written behind those held leave the bytes copied the oldest: the snapshot covers bytes that were there. -/
theorem Micro.CopiesOldest.append {s t : State} {m : Micro} (h : m.CopiesOldest s.cfg s.core) (hm : MicroOk s m)
    (hgain : ∀ ch n, ReadOk s ch n → ∃ xs, held t.cfg t.core ch = held s.cfg s.core ch ++ xs) :
    m.CopiesOldest t.cfg t.core := by
  have htake {ch : Chan} {n : Nat} (hread : ReadOk s ch n) :
      (held s.cfg s.core ch).take n = (held t.cfg t.core ch).take n := by
    obtain ⟨xs, hxs⟩ := hgain ch n hread
    obtain ⟨hn, -⟩ := hread
    rw [hxs, List.take_append_of_le_length (by rwa [held_length])]
  cases m with
  | readPublish ch n data => exact Eq.trans h (htake hm.1)
  | getbPublish ch b => exact Eq.trans h (htake hm.1)
  | tickHeaderPublish n data =>
    obtain ⟨rfl, -, hread, -⟩ := hm
    exact Eq.trans h (htake hread)
  | tickPayloadPublish n data => exact Eq.trans h (htake hm.1)
  | _ => trivial

/-! ### Events -/

/-- A channel that port T is reading has no consumer on port E. -/
theorem ReadOk.ne_of_consume {s : State} {ch c : Chan} {n : Nat} (h : ReadOk s c n)
    (hg : gate s (.consume ch) = none) (hp : s.cur.port = .e) : c ≠ ch := by
  rintro rfl
  obtain rfl := chan_of_gate_consume hg hp
  obtain ⟨-, -, hcons⟩ := h
  have hfree := portRefusal_consume_out.1 (gate_eq_none.1 hg).2.2
  simp [hcons rfl, hp] at hfree

theorem held_gains_of_chan {s t : State} {c : Chan} (hchan : t.core.chan c = s.core.chan c := by simp)
    (hcfg : t.cfg = s.cfg := by simp) : ∃ xs, held t.cfg t.core c = held s.cfg s.core c ++ xs :=
  ⟨[], by rw [List.append_nil, hcfg, held_congr hchan]⟩

/-- An operation on port E adds bytes behind those of a channel that port T is reading, or leaves it alone. -/
theorem Ran.gains_of_event {i : Instr} {s t : State} (h : Ran s i t) (hok : CoreOk s.cfg s.core)
    (hp : s.cur.port = .e) {c : Chan} {n : Nat} (hread : ReadOk s c n) :
    ∃ xs, held t.cfg t.core c = held s.cfg s.core c ++ xs := by
  have hnt : s.cur.port ≠ .t := by simp [hp]
  obtain ⟨hchan, -⟩ := hok
  cases h with
  | sysInit hg => exact absurd (gateInit_eq_none.1 hg).2 hnt
  | chInit _ hg | frmBuild hg | txSendBad _ hg | txSendStart _ _ hg | txSend _ _ hg =>
    exact absurd (port_of_gate_tickPort hg) hnt
  | raTickStart hg | raTickHeader hg | raTickPayload hg => exact absurd (port_of_gate_tick hg) hnt
  | chReadStart _ _ _ hw | chGetbStart _ _ _ hw => exact absurd (port_of_stepwise hw) hnt
  | chRead ch max hg =>
    have hne := hread.ne_of_consume hg hp
    exact held_gains_of_chan (by simp [endRead, readPublish_chan_of_ne hne]) (by simp [endRead])
  | chGetb ch hg =>
    have hne := hread.ne_of_consume hg hp
    exact held_gains_of_chan (by simp [endGetb, readPublish_chan_of_ne hne]) (by simp [endGetb])
  | chWrite ch len => simpa using held_gains_of_writeChan (hchan ch) (s.operandBytes len.toNat) c
  | chPutb ch b hg hroom =>
    have hfree : [b].length ≤ free s.cfg s.core ch := one_le_free (hchan ch) (gate_eq_none.1 hg).1 hroom
    simpa using held_gains_of_writeStore (hchan ch) hfree c
  | rxCapture count data =>
    simpa [held_congr (CoreState.bump_chan ..)] using held_gains_of_writeChan (hchan .chOut) data c
  | txDone | cntReset => exact held_gains_of_chan (by cases c <;> simp [CoreState.chan])
  | chAvail | chGetbEmpty | chPutbFull | frmParse | rxCaptureReject | cntRead => exact held_gains_of_chan

/-- An operation on port E keeps the bytes copied by the operation in progress the oldest. -/
theorem Ran.copiedOk_of_event {i : Instr} {s t : State} (h : Ran s i t) (hs : Inv s) (hcopied : CopiedOk s)
    (hp : s.cur.port = .e) : CopiedOk t := by
  refine copiedOk_iff.2 fun q hq => ?_
  have hq' : s.inProgress = some q := (h.eventKeeps hp).inProgress ▸ hq
  obtain ⟨hok, hm⟩ := hs.of_inProgress hq'
  exact (copiedOk_iff.1 hcopied q hq').append hm fun ch n hread => h.gains_of_event hok hp hread

/-! ### Micro-steps -/

theorem Inv.port_of_inProgress {s : State} {q : InProgress} (h : Inv s) (hq : s.inProgress = some q) :
    q.op.port = .t := by
  obtain ⟨-, hgood, hraw⟩ := h
  have hinit : s.initialised = true := by
    by_contra hno
    rw [hraw (Bool.of_not_eq_true hno)] at hq
    cases hq
  have hprog := (hgood hinit).2
  simp only [ProgressOk, hq] at hprog
  exact hprog.1

/-- A micro-step that copies takes the oldest bytes; the others leave nothing copied behind. -/
theorem microStep_copiedOk {s t : State} {m : Micro} (hport : s.cur.port = .t) (hok : CoreOk s.cfg s.core)
    (hm : MicroOk s m) (h : microStep m s = .next t) : CopiedOk t := by
  have hcopy {ch : Chan} {n : Nat} (hread : ReadOk s ch n) :
      (readCopy s.cfg s.cur.ticket s.core ch n).map some = (held s.cfg s.core ch).take n := by
    obtain ⟨-, -, -, -, hwritten⟩ := hok.1 ch
    exact readCopy_eq_held _ hread.1 hwritten
  cases hwf : s.cfg.wf with
  | false => rw [microStep_of_broken hwf] at h; cases h
  | true =>
    simp only [microStep, hwf, Bool.true_eq_false, if_false] at h
    cases m
    case readCopy ch n => cases h; exact copiedOk_pause (hcopy hm.1)
    case getbCopy ch => cases h; exact copiedOk_pause (hcopy hm.1)
    case tickHeaderCopy n =>
      cases h
      obtain ⟨rfl, hread, -⟩ := hm
      exact copiedOk_pause (hcopy hread)
    case tickPayloadCopy n => cases h; exact copiedOk_pause (hcopy hm.1)
    case tickHeaderSnap | tickPayloadSnap => cases h; exact copiedOk_pause trivial
    case tickHeaderPublish n data =>
      cases h
      unfold tickTakeHeader
      simp only
      split <;> exact copiedOk_pause trivial
    case tickPayloadPublish n data =>
      obtain ⟨_, rfl, ⟨-, rfl⟩ | ⟨-, rfl⟩⟩ := tickTakePayload_next h
      · exact copiedOk_pause trivial
      · exact copiedOk_finish (by exact hport) _
    case tickSend =>
      cases h
      unfold tickAttempt
      split
      · exact copiedOk_finish (by exact hport) _
      · exact copiedOk_pause trivial
    case readPublish | getbPublish | tickBadLength | tickCount | sendCount =>
      cases h
      exact copiedOk_finish (by exact hport) _

/-- Settles O57: an event adds bytes only behind those copied, a micro-step that copies takes the oldest, and an
operation issued on port T has copied nothing yet. -/
theorem copiedBytesStayTheOldest : Obligations.CopiedBytesStayTheOldest := by
  intro s t hs hcopied h
  have hstarts {u : State} (hst : Starts s u) : CopiedOk u := by
    obtain ⟨hcore, hcfg, hprog, -⟩ := hst
    rw [copiedOk_iff] at hcopied ⊢
    rwa [hcore, hcfg, hprog]
  cases step_next h with
  | idle hst => exact hstarts hst
  | resume q u hq _ hst hcur _ hmicro =>
    have ⟨_, _, hprog, _⟩ := hst
    obtain ⟨hok, hm⟩ := (hs.starts hst).of_inProgress (hprog.trans hq)
    exact microStep_copiedOk (hcur ▸ hs.port_of_inProgress hq) hok hm hmicro
  | issue p c cs i u _ _ _ hst hport _ _ hran =>
    cases p with
    | e => exact hran.copiedOk_of_event (hs.starts hst) (hstarts hst) hport
    | t => exact (hran.begun hport).copiedOk

end Sys2Proof.Machine
end

section
/-! What `P_PREEMPT` changes of an operation (70_reset_and_hazards.md R210, R211, R214): how it is cut, and nothing of
what it does. -/

namespace Sys2Proof.Machine

/-! ### Micro-steps run on -/

/-- An outcome with the operation in progress run on, at most `n` micro-steps. -/
def runOnFrom (n : Nat) : Host.Outcome State Fault Refusal → Host.Outcome State Fault Refusal
  | .next s => runOn n s
  | .fault f => .fault f
  | .refused r => .refused r

theorem runOn_of_none {s : State} (h : s.inProgress = none) (n : Nat) : runOn n s = .next s := by
  cases n with
  | zero => rfl
  | succ n => simp only [runOn, h]

/-- Port T runs an operation in a CORE: its micro-steps are not refused. -/
structure OnPortT (s : State) : Prop where
  wf : s.cfg.wf = true
  port : s.cur.port = .t

theorem OnPortT.not_broken {s : State} (h : OnPortT s) : ¬ s.cfg.wf = false := by simp [h.wf]

theorem OnPortT.setCore {s : State} (h : OnPortT s) (k : CoreState) : OnPortT (s.setCore k) := ⟨h.wf, h.port⟩

theorem OnPortT.noteUse {s : State} (h : OnPortT s) (a : Access) : OnPortT (s.noteUse a) := ⟨h.wf, h.port⟩

theorem OnPortT.afterOperands {s : State} (h : OnPortT s) (n : Nat) : OnPortT (s.afterOperands n) :=
  ⟨by simpa using h.wf, by simpa using h.port⟩

theorem OnPortT.sendAttempt {s : State} (h : OnPortT s) (payload : List Byte) : OnPortT (sendAttempt payload s).2 := by
  obtain ⟨hwf, hport⟩ := h
  rw [sendAttempt_frame]
  exact ⟨hwf, hport⟩

theorem runOn_finish {s : State} (h : OnPortT s) (n : Nat) (r : PortResult) :
    runOn n (s.finish r) = .next (s.finish r) := runOn_of_none (inProgress_finish h.port r) n

theorem finish_pause {s : State} (h : OnPortT s) (m : Micro) (r : PortResult) :
    (s.pause m).finish r = s.finish r := by
  simp only [State.finish, State.pause_cur, h.port]
  rfl

/-- The atomic block does not look at what is in progress. -/
theorem sendAttempt_pause (payload : List Byte) (s : State) (m : Micro) :
    sendAttempt payload (s.pause m) = ((sendAttempt payload s).1, (sendAttempt payload s).2.pause m) := by
  cases h : s.core.txReady with
  | false => simp [sendAttempt, h]
  | true =>
    simp only [sendAttempt, State.pause_core, h, Bool.true_eq_false, if_false]
    rfl

theorem storePayload_of_over {n : Nat} {s : State}
    (h : n ≠ 0 ∧ s.cfg.maxPayload < s.core.received.toNat + n) (data : List Byte) :
    storePayload n data s = .error (.pktBufOutside (max s.core.received.toNat s.cfg.maxPayload)) := if_pos h

theorem storePayload_of_fits {n : Nat} {s : State}
    (h : ¬ (n ≠ 0 ∧ s.cfg.maxPayload < s.core.received.toNat + n)) (data : List Byte) :
    storePayload n data s = .ok (s.setCore (s.core.receive s.cfg n data)) := if_neg h

/-- No micro-step looks at what is in progress: it stops again or ends. -/
theorem microStep_pause {s : State} (h : OnPortT s) (m m' : Micro) : microStep m (s.pause m') = microStep m s := by
  have hend (k : CoreState) (r : PortResult) : ((s.pause m').setCore k).finish r = (s.setCore k).finish r :=
    finish_pause (s := s.setCore k) ⟨h.wf, h.port⟩ m' r
  simp only [microStep, State.pause_cfg, h.wf, Bool.true_eq_false, if_false]
  cases m <;> dsimp only
  case readPublish | getbPublish | tickBadLength | tickCount | sendCount => exact congrArg _ (hend _ _)
  case tickPayloadPublish n data =>
    by_cases hover : n ≠ 0 ∧ s.cfg.maxPayload < s.core.received.toNat + n
    · simp only [tickTakePayload, storePayload_of_over hover, storePayload_of_over (s := s.pause m') hover]
      rfl
    · simp only [tickTakePayload, storePayload_of_fits hover, storePayload_of_fits (s := s.pause m') hover]
      exact congrArg _ (ite_congr rfl (fun _ => rfl) fun _ => hend _ _)
  case tickSend =>
    simp only [tickAttempt, sendAttempt_pause]
    exact congrArg _ (ite_congr rfl (fun _ => hend _ _) fun _ => rfl)
  all_goals rfl

theorem runOn_pause {s : State} (h : OnPortT s) (n : Nat) (m : Micro) :
    runOn (n + 1) (s.pause m) = runOnFrom n (microStep m s) := by
  rw [← microStep_pause h m m]
  rfl

/-- The operation in progress goes on with its next micro-step. -/
theorem runOn_next {s t : State} {m : Micro} (h : OnPortT s) (ht : microStep m s = .next t) (n : Nat) :
    runOn (n + 1) (s.pause m) = runOn n t := by
  rw [runOn_pause h, ht]
  rfl

/-! ### The whole tick -/

/-- A tick as one step, by the state of the reassembler (43_reassembler.md R151); `exec_raTick_whole` ties it to the
model. -/
def tickWhole (s : State) : Host.Outcome State Fault Refusal :=
  match s.core.rsState with
  | .waitHeader => tickHeader s
  | .accumulate => tickAccumulate s

theorem tickWhole_waitHeader {s : State} (h : s.core.rsState = .waitHeader) : tickWhole s = tickHeader s := by
  simp only [tickWhole, h]

theorem tickWhole_accumulate {s : State} (h : s.core.rsState = .accumulate) : tickWhole s = tickAccumulate s := by
  simp only [tickWhole, h]

theorem exec_raTick_whole {s : State} (hg : gate s .tick = none) (hwhole : s.stepwise = false) :
    exec .raTick s = tickWhole (s.noteUse .tick) := by
  cases hrs : s.core.rsState with
  | waitHeader => rw [exec_raTick_waitHeader hg hwhole hrs, tickWhole_waitHeader (s := s.noteUse .tick) hrs]
  | accumulate => rw [exec_raTick_accumulate hg hwhole hrs, tickWhole_accumulate (s := s.noteUse .tick) hrs]

/-! ### An operation run on is the whole operation -/

section
variable {s : State} (h : OnPortT s)
include h

theorem runOn_readCopy (n : Nat) (ch : Chan) (k : Nat) :
    runOn (n + 2) (s.pause (.readCopy ch k)) =
      .next (endRead ch k (readCopy s.cfg s.cur.ticket s.core ch k) s) := by
  calc runOn (n + 2) (s.pause (.readCopy ch k))
    _ = runOn (n + 1) (s.pause (.readPublish ch k (readCopy s.cfg s.cur.ticket s.core ch k))) :=
      runOn_next h (by exact if_neg h.not_broken) _
    _ = runOn n (endRead ch k (readCopy s.cfg s.cur.ticket s.core ch k) s) :=
      runOn_next h (by exact if_neg h.not_broken) _
    _ = .next (endRead ch k (readCopy s.cfg s.cur.ticket s.core ch k) s) := runOn_finish (h.setCore _) n _

theorem runOn_getbCopy (n : Nat) (ch : Chan) :
    runOn (n + 2) (s.pause (.getbCopy ch)) = .next (endGetb ch (getbByte s.cfg s.cur.ticket s.core ch) s) := by
  calc runOn (n + 2) (s.pause (.getbCopy ch))
    _ = runOn (n + 1) (s.pause (.getbPublish ch (getbByte s.cfg s.cur.ticket s.core ch))) :=
      runOn_next h (by exact if_neg h.not_broken) _
    _ = runOn n (endGetb ch (getbByte s.cfg s.cur.ticket s.core ch) s) :=
      runOn_next h (by exact if_neg h.not_broken) _
    _ = .next (endGetb ch (getbByte s.cfg s.cur.ticket s.core ch) s) := runOn_finish (h.setCore _) n _

theorem runOn_sendCount (n : Nat) (r : SendResult) : runOn (n + 1) (s.pause (.sendCount r)) = .next (endSend r s) :=
  (runOn_next h (by exact if_neg h.not_broken) n).trans (runOn_finish (h.setCore _) n _)

theorem runOn_tickCount (n : Nat) (r : SendResult) : runOn (n + 1) (s.pause (.tickCount r)) = .next (tickCount r s) :=
  (runOn_next h (by exact if_neg h.not_broken) n).trans
    (runOn_finish (s := (sendCount r s).setCore _) (by exact ⟨h.wf, h.port⟩) n _)

theorem runOn_tickSend (n : Nat) : runOn (n + 2) (s.pause .tickSend) = .next (tickSend s) := by
  rw [runOn_next (t := tickAttempt s) h (by exact if_neg h.not_broken), tickAttempt, tickSend]
  split
  · exact runOn_finish (h.setCore _) (n + 1) _
  · exact runOn_tickCount (h.sendAttempt _) n _

theorem runOn_tickPayloadPublish {k : Nat} {data : List Byte} (n : Nat)
    (hk : k = readSnap s.cfg s.core .chIn s.core.wanted) (hdata : data = readCopy s.cfg s.cur.ticket s.core .chIn k) :
    runOn (n + 3) (s.pause (.tickPayloadPublish k data)) = tickAccumulate s := by
  have hmicro : microStep (.tickPayloadPublish k data) s = tickTakePayload k data s := if_neg h.not_broken
  rw [runOn_pause h, hmicro]
  by_cases hover : k ≠ 0 ∧ s.cfg.maxPayload < s.core.received.toNat + k
  · simp only [tickTakePayload, tickAccumulate, ← hk, ← hdata, storePayload_of_over hover, runOnFrom]
  · simp only [tickTakePayload, tickAccumulate, ← hk, ← hdata, storePayload_of_fits hover, runOnFrom]
    split
    · exact runOn_tickSend (h.setCore _) n
    · exact runOn_finish (h.setCore _) (n + 2) _

theorem runOn_tickPayloadCopy (n : Nat) :
    runOn (n + 4) (s.pause (.tickPayloadCopy (readSnap s.cfg s.core .chIn s.core.wanted))) = tickAccumulate s :=
  (runOn_next h (by exact if_neg h.not_broken) (n + 3)).trans (runOn_tickPayloadPublish h n rfl rfl)

theorem runOn_tickPayloadSnap (n : Nat) : runOn (n + 5) (s.pause .tickPayloadSnap) = tickAccumulate s :=
  (runOn_next h (by exact if_neg h.not_broken) (n + 4)).trans (runOn_tickPayloadCopy h n)

/-- The header read in micro-steps ends as the discard of a bad length, or goes on to the payload read. -/
theorem runOn_tickHeaderSnap (n : Nat) (htwo : 2 ≤ occ s.cfg s.core .chIn) :
    runOn (n + 8) (s.pause .tickHeaderSnap) = tickHeader s := by
  calc runOn (n + 8) (s.pause .tickHeaderSnap)
    _ = runOn (n + 7) (s.pause (.tickHeaderCopy (readSnap s.cfg s.core .chIn 2))) :=
      runOn_next h (by exact if_neg h.not_broken) _
    _ = runOn (n + 7) (s.pause (.tickHeaderCopy 2)) := by rw [readSnap_of_le htwo]
    _ = runOn (n + 6) (s.pause (.tickHeaderPublish 2 (readCopy s.cfg s.cur.ticket s.core .chIn 2))) :=
      runOn_next h (by exact if_neg h.not_broken) _
    _ = runOn (n + 5) (tickTakeHeader 2 (readCopy s.cfg s.cur.ticket s.core .chIn 2) s) :=
      runOn_next h (by exact if_neg h.not_broken) _
    _ = tickHeader s := by
      rw [tickHeader_of_two htwo rfl, tickTakeHeader]
      split
      · calc runOn (n + 5) ((s.setCore (readPublish s.cfg s.core .chIn 2)).pause .tickBadLength)
          _ = runOn (n + 4) (tickDiscard (s.setCore (readPublish s.cfg s.core .chIn 2))) :=
            runOn_next (h.setCore _) (by exact if_neg h.not_broken) _
          _ = .next (tickDiscard (s.setCore (readPublish s.cfg s.core .chIn 2))) :=
            runOn_finish ((h.setCore _).setCore _) _ _
      · exact runOn_tickPayloadSnap ((h.setCore _).setCore _) n

/-- Eight micro-steps after the first suffice for the longest tick: a header read, a payload read, a TX.SEND. -/
theorem runOn_tickFirst : runOn 8 (tickFirst s) = tickWhole s := by
  cases hrs : s.core.rsState with
  | waitHeader =>
    rw [tickWhole_waitHeader hrs]
    rcases Nat.lt_or_ge (occ s.cfg s.core .chIn) 2 with hshort | htwo
    · rw [tickFirst_of_short hrs hshort, tickHeader_of_short hshort]
      exact runOn_finish h 8 _
    · rw [tickFirst_of_two hrs htwo]
      exact runOn_tickHeaderSnap h 0 htwo
  | accumulate =>
    rw [tickFirst_of_accumulate hrs, tickWhole_accumulate hrs]
    exact runOn_tickPayloadCopy h 4

end

end Sys2Proof.Machine
end

section
/-! The setting of `P_PREEMPT` and what does not look at it (70_reset_and_hazards.md R210, R214). -/

namespace Sys2Proof.Machine

/-! ### The parts of an operation under another setting -/

theorem withPreempt_withPreempt (s : State) (a b : Bool) : (s.withPreempt a).withPreempt b = s.withPreempt b := by
  simp only [State.withPreempt, Option.map_map]
  rfl

/-- An operation ends alike under both settings. -/
theorem finish_withPreempt {u v : State} {r : PortResult} {b : Bool} (h : v = u.withPreempt b) :
    v.finish r = (u.finish r).withPreempt b := by
  subst h
  cases hport : u.cur.port <;> simp only [State.finish, State.withPreempt, hport]

theorem afterOperands_withPreempt (s : State) (n : Nat) (b : Bool) :
    (s.withPreempt b).afterOperands n = (s.afterOperands n).withPreempt b := by
  cases h : s.cur.port <;> simp only [State.afterOperands, State.setPortIn, State.portIn, State.withPreempt, h]

theorem operandBytes_withPreempt (s : State) (n : Nat) (b : Bool) :
    (s.withPreempt b).operandBytes n = s.operandBytes n := by
  cases h : s.cur.port <;> simp only [State.operandBytes, State.portIn, State.withPreempt, h]

theorem confIn_withPreempt (s : State) (b : Bool) : (s.withPreempt b).confIn = withPreemptIn b s.confIn := by
  cases h : s.cur.conf <;> simp [State.confIn, State.withPreempt, h]

theorem sendAttempt_withPreempt (payload : List Byte) (s : State) (b : Bool) :
    sendAttempt payload (s.withPreempt b) =
      ((sendAttempt payload s).1, (sendAttempt payload s).2.withPreempt b) := by
  have hcore : (s.withPreempt b).core = s.core := rfl
  cases h : s.core.txReady with
  | false => simp [sendAttempt, hcore, h]
  | true =>
    simp only [sendAttempt, hcore, h, Bool.true_eq_false, if_false]
    rfl

theorem tickSend_withPreempt {s v : State} {b : Bool} (h : v = s.withPreempt b) :
    tickSend v = (tickSend s).withPreempt b := by
  subst h
  have hbad : badLength (s.withPreempt b).cfg (s.withPreempt b).core.expected.toNat =
      badLength s.cfg s.core.expected.toNat := rfl
  have hpacket : packet (s.withPreempt b).cur.ticket (s.withPreempt b).core = packet s.cur.ticket s.core := rfl
  simp only [tickSend, hbad, hpacket, sendAttempt_withPreempt]
  split <;> exact finish_withPreempt (by rfl)

theorem tickAccumulate_withPreempt {s v : State} {b : Bool} (h : v = s.withPreempt b) :
    tickAccumulate v = mapNext (·.withPreempt b) (tickAccumulate s) := by
  subst h
  obtain ⟨n, hn⟩ : ∃ n, n = readSnap s.cfg s.core .chIn s.core.wanted := ⟨_, rfl⟩
  have hn' : n = readSnap (s.withPreempt b).cfg (s.withPreempt b).core .chIn (s.withPreempt b).core.wanted := hn
  by_cases hover : n ≠ 0 ∧ s.cfg.maxPayload < s.core.received.toNat + n
  · simp only [tickAccumulate, ← hn, ← hn', storePayload_of_over hover,
      storePayload_of_over (s := s.withPreempt b) hover]
    rfl
  · simp only [tickAccumulate, ← hn, ← hn', storePayload_of_fits hover,
      storePayload_of_fits (s := s.withPreempt b) hover, mapNext, apply_ite (State.withPreempt · b)]
    exact congrArg _ (ite_congr rfl (fun _ => tickSend_withPreempt (by rfl)) fun _ => finish_withPreempt (by rfl))

theorem tickHeader_withPreempt {s v : State} {b : Bool} (h : v = s.withPreempt b) :
    tickHeader v = mapNext (·.withPreempt b) (tickHeader s) := by
  subst h
  rcases Nat.lt_or_ge (occ s.cfg s.core .chIn) 2 with hshort | htwo
  · rw [tickHeader_of_short hshort, tickHeader_of_short (s := s.withPreempt b) hshort]
    exact congrArg _ (finish_withPreempt (by rfl))
  · rw [tickHeader_of_two htwo rfl, tickHeader_of_two (s := s.withPreempt b) htwo rfl,
      apply_ite (mapNext (·.withPreempt b))]
    exact ite_congr rfl (fun _ => congrArg _ (finish_withPreempt (by rfl))) fun _ => tickAccumulate_withPreempt (by rfl)

theorem tickWhole_withPreempt {s v : State} {b : Bool} (h : v = s.withPreempt b) :
    tickWhole v = mapNext (·.withPreempt b) (tickWhole s) := by
  subst h
  cases hrs : s.core.rsState with
  | waitHeader =>
    rw [tickWhole_waitHeader hrs, tickWhole_waitHeader (s := s.withPreempt b) hrs]
    exact tickHeader_withPreempt rfl
  | accumulate =>
    rw [tickWhole_accumulate hrs, tickWhole_accumulate (s := s.withPreempt b) hrs]
    exact tickAccumulate_withPreempt rfl

/-- TX.SEND of `n` operand bytes, from its atomic block to its end. -/
theorem endSend_withPreempt (s : State) (n : Nat) (b : Bool) :
    endSend (sendAttempt ((s.withPreempt b).operandBytes n) ((s.withPreempt b).afterOperands n)).1
        (sendAttempt ((s.withPreempt b).operandBytes n) ((s.withPreempt b).afterOperands n)).2 =
      (endSend (sendAttempt (s.operandBytes n) (s.afterOperands n)).1
        (sendAttempt (s.operandBytes n) (s.afterOperands n)).2).withPreempt b := by
  rw [afterOperands_withPreempt, operandBytes_withPreempt, sendAttempt_withPreempt]
  exact finish_withPreempt (by rfl)

/-! ### Operations under another setting -/

/-- In this state `P_PREEMPT` = 1 cuts the operation into micro-steps on port T (R211): it passes its gate and does not
end at its first micro-step. `runOnFrom_cut` and `exec_withPreempt` tie it to the model. -/
inductive Cut (s : State) : Instr → Prop where
  | chRead (ch : Chan) (max : Half) : gate s (.consume ch) = none → Cut s (.chRead ch max)
  | chGetb (ch : Chan) : gate s (.consume ch) = none → isEmpty s.core ch = false → Cut s (.chGetb ch)
  | raTick : gate s .tick = none → Cut s .raTick
  | txSend (len : Half) : gate s .tickPort = none → Supplied s len.toNat → badLength s.cfg len.toNat = false →
      Cut s (.txSend len)

theorem gateOf_withPreempt (i : Instr) (s : State) (b : Bool) : gateOf i (s.withPreempt b) = gateOf i s := by
  cases i <;> rfl

/-- Two runs of one operation, under the two settings, that end alike. -/
theorem exec_withPreempt_of_ran {i : Instr} {s t u : State} {b : Bool} (hs : Ran s i t)
    (hb : Ran (s.withPreempt b) i u) (h : u = t.withPreempt b) :
    exec i (s.withPreempt b) = mapNext (·.withPreempt b) (exec i s) := by
  rw [exec_of_ran hs, exec_of_ran hb, h]
  rfl

theorem exec_withPreempt_of_refused {i : Instr} {s : State} {b : Bool} {r : Refusal} (hs : exec i s = .refused r)
    (hb : exec i (s.withPreempt b) = .refused r) :
    exec i (s.withPreempt b) = mapNext (·.withPreempt b) (exec i s) := by
  rw [hs, hb]
  rfl

/-- The setting of `P_PREEMPT` matters to an operation only in cutting it. -/
theorem exec_withPreempt {i : Instr} {s : State} {b : Bool} (hwhole : s.stepwise = false)
    (hcut : Cut s i → (s.withPreempt b).stepwise = false) :
    exec i (s.withPreempt b) = mapNext (·.withPreempt b) (exec i s) := by
  have hgate := gateOf_withPreempt i s b
  cases hg : gateOf i s with
  | some r => exact exec_withPreempt_of_refused (exec_of_gate hg) (exec_of_gate (hgate.trans hg))
  | none =>
    rw [hg] at hgate
    by_cases hs : Supplied s (dinNeed s.cfg (.ok i))
    case neg => exact exec_withPreempt_of_refused (exec_of_short hg hs) (exec_of_short hgate (by exact hs))
    cases i with
    | sysInit =>
      have hconf := confIn_withPreempt s b
      cases hwf : s.confIn.wf with
      | true =>
        refine exec_withPreempt_of_ran (.sysInit hg hwf) (.sysInit hgate (hconf ▸ hwf)) (finish_withPreempt ?_)
        rw [hconf]
        rfl
      | false =>
        exact exec_withPreempt_of_refused (exec_sysInit_of_broken hg hwf)
          (exec_sysInit_of_broken hgate (hconf ▸ hwf))
    | chInit ch => exact exec_withPreempt_of_ran (.chInit ch hg) (.chInit ch hgate) (finish_withPreempt (by rfl))
    | chAvail ch => exact exec_withPreempt_of_ran (.chAvail ch hg) (.chAvail ch hgate) (finish_withPreempt (by rfl))
    | frmBuild => exact exec_withPreempt_of_ran (.frmBuild hg) (.frmBuild hgate) (finish_withPreempt (by rfl))
    | txDone => exact exec_withPreempt_of_ran (.txDone hg) (.txDone hgate) (finish_withPreempt (by rfl))
    | cntReset => exact exec_withPreempt_of_ran (.cntReset hg) (.cntReset hgate) (finish_withPreempt (by rfl))
    | cntRead index =>
      cases hc : counterOf index with
      | none => exact exec_withPreempt_of_refused (exec_cntRead_of_none hg hc) (exec_cntRead_of_none hgate hc)
      | some c =>
        exact exec_withPreempt_of_ran (.cntRead index c hg hc) (.cntRead index c hgate hc) (finish_withPreempt (by rfl))
    | chPutb ch x =>
      cases hfull : isFull s.cfg s.core ch with
      | true =>
        exact exec_withPreempt_of_ran (.chPutbFull ch x hg hfull) (.chPutbFull ch x hgate hfull)
          (finish_withPreempt (by rfl))
      | false =>
        exact exec_withPreempt_of_ran (.chPutb ch x hg hfull) (.chPutb ch x hgate hfull)
          (finish_withPreempt (by rfl))
    | chWrite ch len =>
      refine exec_withPreempt_of_ran (.chWrite ch len hg hs) (.chWrite ch len hgate hs) (finish_withPreempt ?_)
      rw [afterOperands_withPreempt]
      rfl
    | frmParse count =>
      exact exec_withPreempt_of_ran (.frmParse count hg hs) (.frmParse count hgate hs)
        (finish_withPreempt (afterOperands_withPreempt ..))
    | rxCapture count =>
      cases hrej : rejectedAt s.cfg s.core s.cur count (s.operandBytes (bodyLen s.cfg count)) with
      | some g =>
        refine exec_withPreempt_of_ran (.rxCaptureReject count g hg hs hrej) (.rxCaptureReject count g hgate hs hrej)
          (finish_withPreempt ?_)
        rw [afterOperands_withPreempt]
        rfl
      | none =>
        obtain ⟨data, hdata⟩ : ∃ data, data =
            captureData (parseFields s.cfg s.cur (s.operandBytes (bodyLen s.cfg count))) := ⟨_, rfl⟩
        refine exec_withPreempt_of_ran (.rxCapture count data hg hs hrej hdata)
          (.rxCapture count data hgate hs hrej hdata) (finish_withPreempt ?_)
        rw [afterOperands_withPreempt]
        rfl
    | chRead ch max =>
      exact exec_withPreempt_of_ran (.chRead ch max hg hwhole) (.chRead ch max hgate (hcut (.chRead ch max hg)))
        (finish_withPreempt (by rfl))
    | chGetb ch =>
      cases hempty : isEmpty s.core ch with
      | true =>
        exact exec_withPreempt_of_ran (.chGetbEmpty ch hg hempty) (.chGetbEmpty ch hgate hempty)
          (finish_withPreempt (by rfl))
      | false =>
        exact exec_withPreempt_of_ran (.chGetb ch hg hempty hwhole)
          (.chGetb ch hgate hempty (hcut (.chGetb ch hg hempty)))
          (finish_withPreempt (by rfl))
    | raTick =>
      rw [exec_raTick_whole hg hwhole, exec_raTick_whole hgate (hcut (.raTick hg))]
      exact tickWhole_withPreempt (by rfl)
    | txSend len =>
      cases hbad : badLength s.cfg len.toNat with
      | true =>
        refine exec_withPreempt_of_ran (.txSendBad len hg hs hbad) (.txSendBad len hgate hs hbad)
          (finish_withPreempt ?_)
        rw [afterOperands_withPreempt]
        rfl
      | false =>
        exact exec_withPreempt_of_ran (.txSend len _ hg hs hbad hwhole rfl)
          (.txSend len _ hgate hs hbad (hcut (.txSend len hg hs hbad)) rfl) (endSend_withPreempt s len.toNat b)

/-! ### The statement -/

/-- An operation that runs whole leaves nothing in progress. -/
theorem inProgress_of_whole {i : Instr} {s t : State} (h : exec i s = .next t) (hwhole : s.stepwise = false)
    (hfree : s.inProgress = none) : t.inProgress = none := by
  have hran := exec_next h
  cases hport : s.cur.port with
  | e => exact (hran.eventKeeps hport).inProgress.trans hfree
  | t =>
    obtain hnone | ⟨hstep, -⟩ := hran.begun hport
    · exact hnone
    · rw [hwhole] at hstep; cases hstep

theorem Cut.wf {i : Instr} {s : State} (h : Cut s i) : s.cfg.wf = true := by
  cases h <;> exact (gate_eq_none.1 ‹gate s _ = none›).1

/-- An operation that is cut, run on from its first micro-step, ends as it does whole. -/
theorem runOnFrom_cut {i : Instr} {s : State} {b : Bool} (hcut : Cut s i) (hwhole : s.stepwise = false)
    (hstep : (s.withPreempt b).stepwise = true) :
    runOnFrom 8 (exec i (s.withPreempt b)) = mapNext (·.withPreempt b) (exec i s) := by
  have hon : OnPortT (s.withPreempt b) := ⟨hcut.wf, port_of_stepwise hstep⟩
  cases hcut with
  | chRead ch max hg =>
    rw [exec_of_ran (.chRead ch max hg hwhole), exec_of_ran (s := s.withPreempt b) (.chReadStart ch max hg hstep)]
    exact (runOn_readCopy (hon.noteUse _) 6 ch _).trans (congrArg _ (finish_withPreempt (by rfl)))
  | chGetb ch hg hsome =>
    rw [exec_of_ran (.chGetb ch hg hsome hwhole), exec_of_ran (s := s.withPreempt b) (.chGetbStart ch hg hsome hstep)]
    exact (runOn_getbCopy (hon.noteUse _) 6 ch).trans (congrArg _ (finish_withPreempt (by rfl)))
  | raTick hg =>
    rw [exec_raTick_whole hg hwhole, exec_of_ran (s := s.withPreempt b) (.raTickStart hg hstep)]
    exact (runOn_tickFirst (hon.noteUse .tick)).trans (tickWhole_withPreempt rfl)
  | txSend len hg hs hbad =>
    rw [exec_of_ran (.txSend len _ hg hs hbad hwhole rfl),
      exec_of_ran (s := s.withPreempt b) (.txSendStart len _ hg hs hbad hstep rfl)]
    have hsent := (hon.afterOperands len.toNat).sendAttempt ((s.withPreempt b).operandBytes len.toNat)
    exact (runOn_sendCount hsent 7 _).trans (congrArg _ (endSend_withPreempt s len.toNat b))

/-- Settles O55: an operation that is cut, run on, ends as it does whole, and the others do not look at the
setting. -/
theorem preemptSettingsAgree : Obligations.PreemptSettingsAgree := by
  intro i s hfree
  have hwhole : (s.withPreempt false).stepwise = false := rfl
  change runOnFrom 8 (exec i (s.withPreempt true)) = _
  rw [← withPreempt_withPreempt s false true]
  by_cases hcut : Cut (s.withPreempt false) i ∧ ((s.withPreempt false).withPreempt true).stepwise = true
  · exact runOnFrom_cut hcut.1 hwhole hcut.2
  · rw [exec_withPreempt hwhole fun h => Bool.of_not_eq_true fun hstep => hcut ⟨h, hstep⟩]
    cases hexec : exec i (s.withPreempt false) with
    | next t =>
      have hended : (t.withPreempt true).inProgress = none := inProgress_of_whole (t := t) hexec hwhole hfree
      exact runOn_of_none hended 8
    | fault | refused => rfl

end Sys2Proof.Machine
end

section
/-! Initialisation (70_reset_and_hazards.md R200 to R202, R204), what a step does on port T's turn (R210, R211), and the
drained tick (R216). -/

namespace Sys2Proof.Machine

/-! ### Before and after SYS.INIT -/

/-- Settles O9: the gate of every other operation asks for the initialisation. -/
theorem refusedBeforeInitialisation : Obligations.RefusedBeforeInitialisation := by
  intro s i hwf hinit hi
  have hgate (a : Access) : gate s a = some .notInitialised := by simp [gate, hwf, hinit]
  refine exec_of_gate ?_
  cases i with
  | sysInit => exact absurd rfl hi
  | _ => exact hgate _

/-- SYS.INIT on port T of a configured CORE, with inputs that describe one. -/
theorem ran_sysInit {s : State} (hwf : s.cfg.wf = true) (hconf : s.confIn.wf = true) (hport : s.cur.port = .t) :
    Ran s .sysInit ((s.configure s.confIn).finish (freeResult s.cur.ticket)) :=
  .sysInit (gateInit_eq_none.2 ⟨hwf, hport⟩) hconf

/-- Settles O13: SYS.INIT ends with the CORE of its configuration inputs. -/
theorem sysInitLeavesResetValues : Obligations.SysInitLeavesResetValues := by
  intro s hwf hconf hport
  refine ⟨_, _, exec_of_ran (ran_sysInit hwf hconf hport), by simp, fun ch => ?_, by simp [initCore], by simp [initCore],
    by simp [initCore], by simp [initCore], by simp [initCore], fun c => ?_, by simp [initCore], by simp [initCore],
    ?_, ?_, by simp, returns_finish_zero rfl rfl⟩
  · cases ch <;> simp [initCore, CoreState.chan]
  · cases c <;> simp [initCore, Counters.get]
  · simp [State.outNonempty, isEmpty, initCore, CoreState.chan]
  · simp [State.txReadyOut, initCore]

/-- Settles O14: the arrays of the new CORE list nothing, and its run is fresh. -/
theorem sysInitForgetsTheArrays : Obligations.SysInitForgetsTheArrays := by
  intro s hwf hconf hport
  refine ⟨_, exec_of_ran (ran_sysInit hwf hconf hport), fun ch a => ?_, by simp [initCore], by simp [freshUse],
    by simp [freshUse], by simp [freshUse], by simp [freshUse], by simp [freshUse]⟩
  cases ch <;> simp [initCore, CoreState.chan]

/-- Settles O15: the reset state is written out. -/
theorem resetHoldsTheResetValues : Obligations.ResetHoldsTheResetValues := ⟨rfl, rfl, rfl, rfl, rfl, rfl⟩

/-- Settles O59: the step issues SYS.INIT, which samples the inputs that come with its command. -/
theorem reinitialisationTakesOnTheNewInputs : Obligations.ReinitialisationTakesOnTheNewInputs := by
  intro s ts c cs d hs hturn hfree hcmd hdec hconf
  obtain ⟨u, hu⟩ : ∃ u, u =
    (({ s with turns := ts, tx := none } : State).setPortIn .t ⟨cs, (s.portIn .t).din⟩).present .t c := ⟨_, rfl⟩
  have hstep : step s = exec .sysInit u := by
    rw [step_turn_cons hturn (fun _ => hfree) hcmd, runWord_ok hdec, hu]
  have hin : u.confIn = d := by simp [hu, hconf]
  have hwf : u.cfg.wf = true := by simpa [hu] using hs.1
  have hport : u.cur.port = .t := by simp [hu]
  rw [hstep]
  refine ⟨fun hd => ?_, fun hd => exec_sysInit_of_broken (gateInit_eq_none.2 ⟨hwf, hport⟩) (hin ▸ hd)⟩
  have hran := ran_sysInit hwf (hin ▸ hd) hport
  rw [hin] at hran
  have hinv := hran.inv_of_sysInit
  subst hu
  exact ⟨_, _, exec_of_ran hran, hinv, rfl, rfl, rfl, rfl, rfl, rfl, rfl, rfl, rfl, rfl, rfl, rfl, rfl⟩

/-! ### Steps -/

theorem fetch_resume {s : State} {ts : List Port} {q : InProgress} (ht : s.turns = .t :: ts)
    (hq : s.inProgress = some q) : fetch s = .resume q.next { s with turns := ts, tx := none, cur := q.op } := by
  have hfetch : fetch s = .resume q.next { s.quiet with turns := ts, cur := q.op } := by simp only [fetch, ht, hq]
  exact hfetch

theorem step_resume {s : State} {ts : List Port} {q : InProgress} (ht : s.turns = .t :: ts)
    (hq : s.inProgress = some q) : step s = microStep q.next { s with turns := ts, tx := none, cur := q.op } := by
  simp only [step, fetch_resume ht hq]

theorem step_no_turn {s : State} (ht : s.turns = []) : step s = .next s.quiet := by simp only [step, fetch, ht]

/-- Settles O7: `fetch` resumes what is in progress on port T's turn, and is idle with nothing to issue. -/
theorem stepResumesOrIdles : Obligations.StepResumesOrIdles := by
  refine ⟨fun s ts q ht hq => step_resume ht hq, fun s ht => step_no_turn ht, fun s p ts ht hp hc => ?_⟩
  have hc' : (({ s with turns := ts, tx := none } : State).portIn p).cmds = [] := by
    cases p <;> exact hc
  simp only [step, fetch_turn ht hp, issueFrom, hc']

/-! ### First micro-steps -/

/-- Settles O54: past its gate each of the three stops after its first micro-step. -/
theorem preemptedOperationsStart : Obligations.PreemptedOperationsStart := by
  refine ⟨fun s ch max hmay hstep => ?_, fun s ch hmay hstep hne => ?_,
    fun s len hready hstep hs hpos hmax hbusy => ?_⟩
  · exact ⟨_, exec_of_ran (.chReadStart ch max (gate_consume hmay) hstep), rfl, rfl, rfl, rfl⟩
  · have hsome : isEmpty s.core ch = false := by simpa [isEmpty] using hne
    exact ⟨_, exec_of_ran (.chGetbStart ch (gate_consume hmay) hsome hstep), rfl, rfl, rfl, rfl⟩
  · have hgood : badLength s.cfg len.toNat = false := badLength_eq_false.2 ⟨hpos, hmax⟩
    have hattempt : sendAttempt (s.operandBytes len.toNat) (s.afterOperands len.toNat) =
      (.busy, s.afterOperands len.toNat) := by simp [sendAttempt, hbusy]
    exact ⟨_, exec_of_ran (.txSendStart len _ (gate_tickPort hready) hs hgood hstep hattempt.symm), by simp, by simp,
      by simp, by simp⟩

/-! ### The drained tick -/

/-- Settles O44: the tick finds fewer than two bytes, at its first micro-step or as a whole. -/
theorem drainedTickChangesNothing : Obligations.DrainedTickChangesNothing := by
  rintro s h huse ⟨hocc, hrs, -, -⟩
  have hg := gate_tick h huse
  have hshort : occ (s.noteUse .tick).cfg (s.noteUse .tick).core .chIn < 2 := by simp [hocc]
  have hexec : exec .raTick s = .next (endTick (s.noteUse .tick)) := by
    cases hwhole : s.stepwise with
    | true => rw [exec_of_ran (.raTickStart hg hwhole), tickFirst_of_short (s := s.noteUse .tick) hrs hshort]
    | false => rw [exec_raTick_waitHeader hg hwhole hrs, tickHeader_of_short hshort]
  exact ⟨_, _, hexec, by simp [endTick], by simp [endTick], by simp [endTick], returns_finish_zero rfl rfl⟩

end Sys2Proof.Machine
end

section
/-! The micro-steps that publish (70_reset_and_hazards.md R211, R212): each gives up exactly the bytes it delivers. -/

namespace Sys2Proof.Machine

/-- Port T has resumed its operation `op` from `s`, the turns `ts` being left; `step_resume` ties it to the step. -/
abbrev State.resumed (s : State) (ts : List Port) (op : Presented) : State :=
  { s with turns := ts, tx := none, cur := op }

theorem resT_finish {s : State} (h : s.cur.port = .t) (r : PortResult) : (s.finish r).resT = some r := by
  simp only [State.finish, h]

theorem resE_finish_of_tick {s : State} (h : s.cur.port = .t) (r : PortResult) : (s.finish r).resE = s.resE := by
  simp only [State.finish, h]

section
variable {s : State} {ts : List Port} {op : Presented} (ht : s.turns = .t :: ts)
include ht

theorem turnTaken_pause (k : CoreState) (m : Micro) : TurnTaken s (((s.resumed ts op).setCore k).pause m) := by
  simp [TurnTaken, ht]

theorem turnTaken_finish (hport : op.port = .t) (k : CoreState) (r : PortResult) :
    TurnTaken s (((s.resumed ts op).setCore k).finish r) := by
  simp [TurnTaken, ht, resE_finish_of_tick, hport]

end

/-- What the invariant gives of the operation in progress on port T that is about to publish. -/
theorem Inv.pending {s : State} {op : Presented} {m : Micro} (h : Inv s) (hc : CopiedOk s)
    (hq : s.inProgress = some ⟨op, m⟩) :
    ¬ s.cfg.wf = false ∧ op.port = .t ∧ CoreOk s.cfg s.core ∧ MicroOk s m ∧ m.CopiesOldest s.cfg s.core := by
  obtain ⟨hok, hm⟩ := h.of_inProgress hq
  exact ⟨by simp [h.1], h.port_of_inProgress hq, hok, hm, copiedOk_iff.1 hc _ hq⟩

/-! ### Publishing the header of a packet -/

theorem tickTakeHeader_of_bad {b0 b1 : Byte} {s : State} (h : badHeader s.cfg (be16 b0 b1) = true) :
    tickTakeHeader 2 [b0, b1] s = (s.setCore (readPublish s.cfg s.core .chIn 2)).pause .tickBadLength := if_pos h

theorem tickTakeHeader_of_good {b0 b1 : Byte} {s : State} (h : ¬ badHeader s.cfg (be16 b0 b1) = true) :
    tickTakeHeader 2 [b0, b1] s =
      (s.setCore ((readPublish s.cfg s.core .chIn 2).startPacket (be16 b0 b1))).pause .tickPayloadSnap := if_neg h

/-! ### Publishing payload bytes -/

/-- Publishing payload bytes that the packet wants takes them in, and goes on to TX.SEND or ends the tick. -/
theorem tickTakePayload_of_wanted {s : State} {n : Nat} {data : List Byte} (hlen : LengthsOk s.cfg s.core)
    (hpart : PartialOk s.core) (hn : n ≤ s.core.wanted) :
    tickTakePayload n data s = .next
      (if s.core.received.toNat + n = s.core.expected.toNat then
        (s.setCore (s.core.receive s.cfg n data)).pause .tickSend
      else endTick (s.setCore (s.core.receive s.cfg n data))) := by
  have hfull : (s.core.receive s.cfg n data).received = (s.core.receive s.cfg n data).expected ↔
      s.core.received.toNat + n = s.core.expected.toNat := by
    rw [← BitVec.toNat_inj, receive_received_toNat hn, receive_expected]
  simp only [tickTakePayload, storePayload_of_wanted data hlen hpart hn, State.setCore_core, hfull]

theorem sameOffChannels_receive (cfg : Config) (k : CoreState) (n : Nat) (data : List Byte) :
    SameOffChannels k { k.receive cfg n data with received := k.received, pktBuf := k.pktBuf } := by
  simp [SameOffChannels]

theorem step_tickPayloadPublish {s : State} {ts : List Port} {op : Presented} {k : Nat} {data : List Byte}
    (ht : s.turns = .t :: ts) (hq : s.inProgress = some ⟨op, .tickPayloadPublish k data⟩) (hwf : ¬ s.cfg.wf = false)
    (hport : op.port = .t) (hlen : LengthsOk s.cfg s.core) (hwant : k ≤ s.core.wanted) (hpart : PartialOk s.core) :
    ∃ t, step s = .next t ∧ t.core = s.core.receive s.cfg k data ∧ TurnTaken s t ∧
      (s.core.received.toNat + k = s.core.expected.toNat → t.inProgress = some ⟨op, .tickSend⟩ ∧ t.resT = s.resT) ∧
      (s.core.received.toNat + k < s.core.expected.toNat → t.inProgress = none) := by
  have hmicro : microStep (.tickPayloadPublish k data) (s.resumed ts op) =
      tickTakePayload k data (s.resumed ts op) := if_neg hwf
  have hstep := ((step_resume ht hq).trans hmicro).trans
    (tickTakePayload_of_wanted (s := s.resumed ts op) (data := data) hlen hpart hwant)
  by_cases hfull : s.core.received.toNat + k = s.core.expected.toNat
  · rw [if_pos hfull] at hstep
    exact ⟨_, hstep, rfl, turnTaken_pause ht _ _, fun _ => ⟨rfl, rfl⟩, fun hlt => absurd hfull hlt.ne⟩
  · rw [if_neg hfull] at hstep
    exact ⟨_, hstep, State.finish_core .., turnTaken_finish ht hport _ _, fun h => absurd h hfull,
      fun _ => inProgress_finish (by exact hport) _⟩

/-! ### The statement -/

/-- Settles O58: the invariant covers the bytes copied and `CopiedOk` makes them the oldest; each of the four
micro-steps moves `tail` past them. -/
theorem publishingDeliversTheCopiedBytes : Obligations.PublishingDeliversTheCopiedBytes := by
  refine ⟨fun s ts op ch k data hs hc ht hq => ?_, fun s ts op ch b hs hc ht hq => ?_,
    fun s ts op k data hs hc ht hq => ?_, fun s ts op k data hs hc ht hq => ?_⟩ <;>
    obtain ⟨hwf, hport, hok, hm, hdata⟩ := hs.pending hc hq
  · obtain ⟨⟨hocc, hlt, -⟩, hlen, -⟩ := hm
    have hstep : step s = .next (endRead ch k data (s.resumed ts op)) := (step_resume ht hq).trans (if_neg hwf)
    refine ⟨_, _, hstep, ?_, ?_, ?_, turnTaken_finish ht hport _ _, inProgress_finish (by exact hport) _,
      resT_finish (by exact hport) _, rcountOf_toNat (by omega), rfl, hdata, hlen⟩ <;>
      simp only [endRead, State.finish_core, State.setCore_core]
    · exact consumed_readPublish (hok.1 ch) hocc
    · exact readPublish_cnt ..
    · exact readPublish_sameOffChannels ..
  · obtain ⟨⟨hocc, -⟩, -⟩ := hm
    have hstep : step s = .next (endGetb ch b (s.resumed ts op)) := (step_resume ht hq).trans (if_neg hwf)
    refine ⟨_, _, hstep, ?_, ?_, ?_, turnTaken_finish ht hport _ _, inProgress_finish (by exact hport) _,
      resT_finish (by exact hport) _, rfl, rfl, hdata⟩ <;>
      simp only [endGetb, State.finish_core, State.setCore_core]
    · exact consumed_readPublish (hok.1 ch) hocc
    · exact readPublish_cnt ..
    · exact readPublish_sameOffChannels ..
  · obtain ⟨rfl, hlen, ⟨hocc, -⟩, -⟩ := hm
    obtain ⟨b0, b1, rfl⟩ := List.length_eq_two.1 hlen
    have hstep : step s = .next (tickTakeHeader 2 [b0, b1] (s.resumed ts op)) :=
      (step_resume ht hq).trans (if_neg hwf)
    have hcons := consumed_readPublish (hok.1 .chIn) hocc
    by_cases hbad : badHeader s.cfg (be16 b0 b1) = true
    · rw [tickTakeHeader_of_bad (s := s.resumed ts op) hbad] at hstep
      exact ⟨_, b0, b1, hstep, rfl, hdata.symm, hcons, readPublish_cnt .., turnTaken_pause ht _ _, rfl,
        fun _ => ⟨rfl, readPublish_sameOffChannels ..⟩,
        fun hpos hmax => absurd (badHeader_be16_iff.1 hbad) (by omega)⟩
    · rw [tickTakeHeader_of_good (s := s.resumed ts op) hbad] at hstep
      refine ⟨_, b0, b1, hstep, rfl, hdata.symm, hcons.congr fun c => by simp, by simp, turnTaken_pause ht _ _, rfl,
        fun hno => absurd (badHeader_be16_iff.2 hno) hbad, fun _ _ => ⟨rfl, rfl, rfl, ?_, ?_⟩⟩
      · simpa using toNat_be16 b0 b1
      · simp [SameOffChannels, readPublish]
  · obtain ⟨⟨hocc, -⟩, hlen, hwant, hpart⟩ := hm
    have ⟨hchan, _, _, hlengths⟩ := hok
    obtain ⟨t, hnext, hcore, htaken, hsend, hend⟩ := step_tickPayloadPublish ht hq hwf hport hlengths hwant hpart
    refine ⟨t, hnext, ?_⟩
    rw [hcore]
    exact ⟨consumed_receive data (hchan .chIn) hocc, hdata, hlen, receive_received_toNat hwant,
      fun i hi => read_receive_new hlen hi, fun a ha => read_receive_old hlen ha, sameOffChannels_receive .., rfl,
      htaken, hsend, hend⟩

end Sys2Proof.Machine
end
